-- ==== Sys2Proof/Word.lean ====
section
/-! DEFINITION. The words of the FSK discriminator: the number system `NUM` of rule R10, bytes and the
small bit fields of the formats (rule R80), the complex sample (rule R36) and the Device Identifier (rule R202). -/

namespace Sys2Proof

/-- The names of the numbers of rule R10. In the reference number system, the exact rationals (decision D5), a name is
the number itself; in another exact one it names a number of that system, 0 naming 0. What the operations on names are
is a field of the configuration (`NumSystem`, `Params.num` in Config.lean), never Lean's own `+` or `<`. See log
entry 2. -/
abbrev NUM := Rat

/-- A frame byte: unsigned, 8 bits, bit 7 most significant (rule R12). -/
abbrev Byte := BitVec 8

/-- The 4-bit button code of format NIB (rule R91). -/
abbrev Nibble := BitVec 4

/-- The 2-bit code of `PHASE`, which is format UOP (rules R21, R95). -/
abbrev PhaseCode := BitVec 2

/-- The control word `c = {rst, cancel, in_valid}`, `rst` bit 2 (rule R83). -/
abbrev ControlWord := BitVec 3

/-- One Sample: the in-phase and quadrature components (rules R36, R82, R84). -/
structure Sample where
  /-- in-phase component, wire `in_i` -/
  i : NUM
  /-- quadrature component, wire `in_q` -/
  q : NUM
deriving DecidableEq, Repr

/-- The origin `(0, 0)`, the reset value of `PREV` (rule R40). -/
def Sample.origin : Sample := ⟨0, 0⟩

/-- The 4-byte Device Identifier, `out0` first and most significant, `out3` the XOR self-check (rules R86, R202). -/
structure Ident where
  /-- first, most significant byte -/
  out0 : Byte
  /-- second byte -/
  out1 : Byte
  /-- third byte -/
  out2 : Byte
  /-- self-check byte -/
  out3 : Byte
deriving DecidableEq, Repr

/-- The identifier wires when they carry nothing: all 0 (rule R85). -/
def Ident.zero : Ident := ⟨0, 0, 0, 0⟩

end Sys2Proof
end

