-- ==== Sys2Proof/Config.lean ====
section
/-! DEFINITION. The number system `NUM` of rule R10 with its function `ARG` and constant `PI`, of which only properties
A1 to A7 of rule R138 are known; the configuration constants of rule R8, `NUM` among them; the refusal of an illegal
configuration (rules R11, R35, R252); and the time base of rule R9. The parameters the spec leaves OPEN are opaque
constants. -/

namespace Sys2Proof

/-! ### Number systems (rules R10, R138) -/

/-- The members of a number system of rule R10, as operations on the names of its numbers; its constant 0 is named 0. -/
structure NumSystem where
  /-- exact addition -/
  add : NUM → NUM → NUM
  /-- exact subtraction -/
  sub : NUM → NUM → NUM
  /-- exact multiplication -/
  mul : NUM → NUM → NUM
  /-- `HALF` -/
  half : NUM → NUM
  /-- the total order -/
  le : NUM → NUM → Bool
  /-- `PI` -/
  pi : NUM
  /-- `ARG(re, im)`, the angle of the point `(re, im)`; never applied to `(0, 0)` (rule R138) -/
  arg : NUM → NUM → NUM

/-- The strict order. -/
def NumSystem.lt (N : NumSystem) (a b : NUM) : Bool := !N.le b a

/-- The negative of a number. -/
def NumSystem.neg (N : NumSystem) (a : NUM) : NUM := N.sub 0 a

/-- `min` (rule R10). -/
def NumSystem.min (N : NumSystem) (a b : NUM) : NUM := if N.le a b then a else b

/-- `max` (rule R10). -/
def NumSystem.max (N : NumSystem) (a b : NUM) : NUM := if N.le a b then b else a

/-- The numbers are exact: the names stand for elements of an ordered field, no two for one, and the operations are
those of the field, with no rounding and no overflow. (An ordered ring with halves, all that rule R10 asks for, embeds
in its field of quotients.) -/
structure NumSystem.ExactIn (N : NumSystem) (K : Type) [Field K] [LinearOrder K] [IsStrictOrderedRing K]
    (val : NUM → K) : Prop where
  /-- no number has two names -/
  inj : ∀ a b, val a = val b → a = b
  /-- 0 names 0 -/
  val_zero : val 0 = 0
  /-- exact addition -/
  val_add : ∀ a b, val (N.add a b) = val a + val b
  /-- exact subtraction -/
  val_sub : ∀ a b, val (N.sub a b) = val a - val b
  /-- exact multiplication -/
  val_mul : ∀ a b, val (N.mul a b) = val a * val b
  /-- exact halving -/
  val_half : ∀ a, val (N.half a) = val a / 2
  /-- the order -/
  le_iff : ∀ a b, N.le a b = true ↔ val a ≤ val b

/-- Properties A2 to A7 of rule R138 (A1, that the value depends on `(re, im)` alone, is that `arg` is a function). -/
structure NumSystem.ArgLaws (N : NumSystem) {K : Type} [Field K] [LinearOrder K] [IsStrictOrderedRing K]
    (val : NUM → K) : Prop where
  /-- A2, `PI > 0` -/
  pi_pos : 0 < val N.pi
  /-- A2, range -/
  range : ∀ re im, ¬(re = 0 ∧ im = 0) → -val N.pi < val (N.arg re im) ∧ val (N.arg re im) ≤ val N.pi
  /-- A3, positive -/
  pos_iff : ∀ re im, ¬(re = 0 ∧ im = 0) → (0 < val (N.arg re im) ↔ 0 < val im ∨ (im = 0 ∧ val re < 0))
  /-- A3, zero -/
  zero_iff : ∀ re im, ¬(re = 0 ∧ im = 0) → (N.arg re im = 0 ↔ im = 0 ∧ 0 < val re)
  /-- A3, negative -/
  neg_iff : ∀ re im, ¬(re = 0 ∧ im = 0) → (val (N.arg re im) < 0 ↔ val im < 0)
  /-- A4, positive real axis -/
  axis_east : ∀ x, 0 < val x → N.arg x 0 = 0
  /-- A4, positive imaginary axis -/
  axis_north : ∀ y, 0 < val y → N.arg 0 y = N.half N.pi
  /-- A4, negative real axis -/
  axis_west : ∀ x, val x < 0 → N.arg x 0 = N.pi
  /-- A4, negative imaginary axis -/
  axis_south : ∀ y, val y < 0 → N.arg 0 y = N.neg (N.half N.pi)
  /-- A5, scale -/
  scale : ∀ k re im, 0 < val k → ¬(re = 0 ∧ im = 0) → N.arg (N.mul k re) (N.mul k im) = N.arg re im
  /-- A6, odd -/
  odd : ∀ re im, im ≠ 0 → N.arg re (N.neg im) = N.neg (N.arg re im)
  /-- A7, order in the upper half plane -/
  order : ∀ re im re' im', 0 < val im → 0 < val im' →
    (val (N.arg re im) < val (N.arg re' im') ↔ val re' * val im < val re * val im')

/-- A number system that rule R10 admits: exact, with an `ARG` and a `PI` that have properties A1 to A7. -/
def NumSystem.Admitted (N : NumSystem) : Prop :=
  ∃ (K : Type) (_ : Field K) (_ : LinearOrder K) (_ : IsStrictOrderedRing K) (val : NUM → K),
    N.ExactIn K val ∧ N.ArgLaws val

/-- The exact rationals with a `PI` and an `ARG`. -/
def NumSystem.rationals (pi : NUM) (arg : NUM → NUM → NUM) : NumSystem :=
  { add := (· + ·), sub := (· - ·), mul := (· * ·), half := (· / 2), le := fun a b => decide (a ≤ b),
    pi := pi, arg := arg }

/-- The rationals are exact, each its own name. -/
theorem NumSystem.rationals_exactIn (pi : NUM) (arg : NUM → NUM → NUM) :
    (NumSystem.rationals pi arg).ExactIn Rat fun a => a where
  inj _ _ h := h
  val_zero := rfl
  val_add _ _ := rfl
  val_sub _ _ := rfl
  val_mul _ _ := rfl
  val_half _ := rfl
  le_iff _ _ := decide_eq_true_iff

/-- A rational function with the properties of `NumSystem.ArgLaws` at `PI = 2` (the angle measured along a diamond). It
serves only to show that the properties can be met; no definition of the machine mentions it. -/
def Diamond.arg (re im : NUM) : NUM :=
  if 0 < im then 1 - re / (|re| + im)
  else if im < 0 then re / (|re| - im) - 1
  else if re < 0 then 2 else 0

theorem Diamond.arg_upper {re im : NUM} (h : 0 < im) : Diamond.arg re im = 1 - re / (|re| + im) := by
  simp [Diamond.arg, h]

theorem Diamond.arg_lower {re im : NUM} (h : im < 0) : Diamond.arg re im = re / (|re| - im) - 1 := by
  simp [Diamond.arg, h, not_lt.mpr h.le]

theorem Diamond.upper_range {re im : NUM} (h : 0 < im) : 0 < 1 - re / (|re| + im) ∧ 1 - re / (|re| + im) < 2 := by
  have hd : 0 < |re| + im := by positivity
  have h1 : re / (|re| + im) < 1 := by rw [div_lt_one hd]; linarith [le_abs_self re]
  have h2 : -1 < re / (|re| + im) := by rw [lt_div_iff₀ hd]; linarith [neg_abs_le re]
  constructor <;> linarith

open Diamond in
theorem Diamond.lower_range {re im : NUM} (h : im < 0) : re / (|re| - im) - 1 < 0 ∧ -2 < re / (|re| - im) - 1 := by
  have := upper_range (re := re) (im := -im) (by linarith)
  simp only [← sub_eq_add_neg] at this
  constructor <;> linarith [this.1, this.2]

open Diamond in
theorem Diamond.arg_laws : (NumSystem.rationals 2 Diamond.arg).ArgLaws (K := Rat) fun a => a where
  pi_pos := by change (0 : Rat) < 2; norm_num
  range re im h := by
    change -2 < Diamond.arg re im ∧ Diamond.arg re im ≤ 2
    rcases lt_trichotomy im 0 with hi | hi | hi
    · rw [arg_lower hi]; have := lower_range (re := re) hi; constructor <;> linarith [this.1, this.2]
    · subst hi; simp only [arg, lt_irrefl, if_false]; split <;> norm_num
    · rw [arg_upper hi]; have := upper_range (re := re) hi; constructor <;> linarith [this.1, this.2]
  pos_iff re im h := by
    change 0 < Diamond.arg re im ↔ 0 < im ∨ (im = 0 ∧ re < 0)
    rcases lt_trichotomy im 0 with hi | hi | hi
    · rw [arg_lower hi]; have := lower_range (re := re) hi
      constructor
      · intro; linarith [this.1]
      · rintro (h | ⟨h, -⟩) <;> linarith
    · subst hi; simp only [arg, lt_irrefl, if_false]; split <;> simp [*]
    · rw [arg_upper hi]; simp [hi, (upper_range (re := re) hi).1]
  zero_iff re im h := by
    change Diamond.arg re im = 0 ↔ im = 0 ∧ 0 < re
    rcases lt_trichotomy im 0 with hi | hi | hi
    · rw [arg_lower hi]; have := lower_range (re := re) hi
      simp [hi.ne, this.1.ne]
    · subst hi; simp only [arg, lt_irrefl, if_false]
      have : re ≠ 0 := by simpa using h
      rcases lt_or_gt_of_ne this with hr | hr
      · simp [hr, not_lt.mpr hr.le]
      · simp [hr, not_lt.mpr hr.le]
    · rw [arg_upper hi]; simp [hi.ne', (upper_range (re := re) hi).1.ne']
  neg_iff re im h := by
    change Diamond.arg re im < 0 ↔ im < 0
    rcases lt_trichotomy im 0 with hi | hi | hi
    · rw [arg_lower hi]; simp [hi, (lower_range (re := re) hi).1]
    · subst hi; simp only [arg, lt_irrefl, if_false]; split <;> norm_num
    · rw [arg_upper hi]; have := upper_range (re := re) hi
      constructor <;> intro <;> linarith [this.1]
  axis_east x hx := by change Diamond.arg x 0 = 0; simp [arg, not_lt.mpr hx.le]
  axis_north y hy := by change Diamond.arg 0 y = 2 / 2; rw [arg_upper hy]; norm_num
  axis_west x hx := by change Diamond.arg x 0 = 2; simp [arg, hx]
  axis_south y hy := by change Diamond.arg 0 y = 0 - 2 / 2; rw [arg_lower hy]; norm_num
  scale k re im hk h := by
    change Diamond.arg (k * re) (k * im) = Diamond.arg re im
    have hab : |k * re| = k * |re| := by rw [abs_mul, abs_of_pos hk]
    rcases lt_trichotomy im 0 with hi | hi | hi
    · rw [arg_lower hi, arg_lower (mul_neg_of_pos_of_neg hk hi), hab, ← mul_sub,
        mul_div_mul_left _ _ hk.ne']
    · subst hi; simp [arg, mul_neg_iff, hk, not_lt.mpr hk.le]
    · rw [arg_upper hi, arg_upper (mul_pos hk hi), hab, ← mul_add, mul_div_mul_left _ _ hk.ne']
  odd re im h := by
    change Diamond.arg re (0 - im) = 0 - Diamond.arg re im
    rw [zero_sub, zero_sub]
    rcases lt_or_gt_of_ne h with hi | hi
    · rw [arg_lower hi, arg_upper (neg_pos.mpr hi), ← sub_eq_add_neg]; ring
    · rw [arg_upper hi, arg_lower (neg_lt_zero.mpr hi), sub_neg_eq_add]; ring
  order re im re' im' h h' := by
    change Diamond.arg re im < Diamond.arg re' im' ↔ re' * im < re * im'
    rw [arg_upper h, arg_upper h', sub_lt_sub_iff_left, div_lt_div_iff₀ (by positivity) (by positivity)]
    rcases le_or_gt 0 re with s | s <;> rcases le_or_gt 0 re' with s' | s'
    · rw [abs_of_nonneg s, abs_of_nonneg s']; constructor <;> intro hh <;> nlinarith
    · rw [abs_of_nonneg s, abs_of_neg s']
      exact ⟨fun _ => by nlinarith [mul_neg_of_neg_of_pos s' h, mul_nonneg s h'.le],
        fun _ => by nlinarith [mul_neg_of_neg_of_pos s' h, mul_nonneg s h'.le, mul_nonneg s (neg_nonneg.mpr s'.le)]⟩
    · rw [abs_of_neg s, abs_of_nonneg s']
      exact ⟨fun _ => by nlinarith [mul_neg_of_neg_of_pos s h', mul_nonneg s' h.le, mul_nonneg s' (neg_nonneg.mpr s.le)],
        fun _ => by nlinarith [mul_neg_of_neg_of_pos s h', mul_nonneg s' h.le]⟩
    · rw [abs_of_neg s, abs_of_neg s']; constructor <;> intro hh <;> nlinarith

/-- A `PI` and an `ARG` on the rationals with their properties. The field's default is only the witness that such a
pair exists; nothing about the constant below follows from it. -/
structure Angle where
  /-- `(PI, ARG)` with properties A2 to A7 -/
  pair : { p : NUM × (NUM → NUM → NUM) // (NumSystem.rationals p.1 p.2).ArgLaws (K := Rat) fun a => a } :=
    ⟨(2, Diamond.arg), Diamond.arg_laws⟩
deriving Inhabited

/-- A number system that rule R10 admits. The default is again only the witness. -/
structure ExactNum where
  /-- the system -/
  system : { N : NumSystem // N.Admitted } :=
    ⟨.rationals 2 Diamond.arg,
      ⟨Rat, inferInstance, inferInstance, inferInstance, _, NumSystem.rationals_exactIn _ _, Diamond.arg_laws⟩⟩
deriving Inhabited

/-- The angles on the rationals, by name: opaque, each known only by `NumSystem.ArgLaws` (log entry 4). -/
opaque Config.angle : Nat → Angle

/-- The exact number systems, by name: opaque, each known only to be admitted (log entry 2). -/
opaque Config.exactNum : Nat → ExactNum

/-- `NUM` as a configuration names it (rules R8, R10). -/
inductive NumChoice where
  /-- the reference instance: the exact rationals, with the angle of a name (decision D5) -/
  | rationals (angle : Nat)
  /-- another exact number system, of a name -/
  | exact (name : Nat)
deriving DecidableEq, Repr, Inhabited

/-- The number system a configuration names. -/
def NumChoice.system : NumChoice → NumSystem
  | .rationals a => .rationals (Config.angle a).pair.1.1 (Config.angle a).pair.1.2
  | .exact k => (Config.exactNum k).system.1

/-- Every number system of a configuration is one that rule R10 admits: all that is known of it. -/
theorem NumChoice.admitted (c : NumChoice) : c.system.Admitted := by
  cases c with
  | rationals a =>
    exact ⟨Rat, inferInstance, inferInstance, inferInstance, _, NumSystem.rationals_exactIn _ _, (Config.angle a).pair.2⟩
  | exact k => exact (Config.exactNum k).system.2

/-- A number system as an environment may offer it. -/
inductive RawNum where
  /-- one that rule R10 admits -/
  | admitted (c : NumChoice)
  /-- an inexact one, without rules for overflow and rounding (rule R10; spec/93 row U6) -/
  | inexact
  /-- one whose `ARG` lacks a property of A1 to A7 (spec/93 row U10) -/
  | unlawfulArg
deriving DecidableEq, Repr

/-! ### The constants (rule R8) -/

/-- `THRESH_MODE` (rules R8, R152): which threshold computation runs. OPEN, no default (decision D8). -/
inductive ThreshMode where
  /-- the preamble pass runs; half the observed range -/
  | preamble
  /-- the pass is skipped; half the difference of the untouched sentinels -/
  | sentinel
  /-- the fallback fixed threshold -/
  | fixed
deriving DecidableEq, Repr, Inhabited

/-- The configuration constants of rule R8 that a rule reads, with the constraints of rule R11. A value of this
type is a legal configuration; `Config.check` refuses an illegal one by name. -/
structure Params where
  /-- `NUM`, the number system with its `ARG` and `PI` (rule R10) -/
  num : NumChoice
  /-- `SQUELCH`, power units -/
  squelch : NUM
  /-- `SIZE_SYNC`, unit intervals -/
  sizeSync : Nat
  /-- `TIME_STEP`, time units per sample -/
  timeStep : Nat
  /-- `UNIT_INTERVAL`, time units per bit -/
  unitInterval : Nat
  /-- `THRESH_MODE` -/
  threshMode : ThreshMode
  /-- `THRESH_FIXED`, read only in mode `FIXED` -/
  threshFixed : NUM
  /-- `SENT_HI`, where `DMIN` starts -/
  sentHi : NUM
  /-- `SENT_LO`, where `DMAX` starts -/
  sentLo : NUM
  /-- `ABORT_ON_POWER_DROP` -/
  abortOnPowerDrop : Bool
  /-- rule R11: `TIME_STEP >= 1` -/
  timeStep_pos : 0 < timeStep
  /-- rule R11: `UNIT_INTERVAL >= 1` -/
  unitInterval_pos : 0 < unitInterval
  /-- rule R11: `SENT_LO <= SENT_HI` -/
  sent_le : num.system.le sentLo sentHi = true
deriving DecidableEq, Repr

/-- The number system of a configuration. -/
def Params.sys (c : Params) : NumSystem := c.num.system

/-- `FRAME_BYTES` of rule R8: not configurable. -/
def Config.frameBytes : Nat := 8

/-- `FRAME_BITS` of rule R8: `8 × FRAME_BYTES`. -/
def Config.frameBits : Nat := 8 * Config.frameBytes

/-- The reference `BIT_RATE` of rule R8, bits per second. -/
def Config.bitRate : Nat := 152381

/-- `TIME_STEP = floor(10^9 / SAMPLE_RATE)`, nanoseconds (rule R9). -/
def Config.timeStepOf (sampleRate : Nat) : Nat := 1000000000 / sampleRate

/-- `UNIT_INTERVAL = floor(10^9 / BIT_RATE)`, nanoseconds (rule R9). -/
def Config.unitIntervalOf (bitRate : Nat) : Nat := 1000000000 / bitRate

/-- A configuration as an environment may offer it, before the check of rules R11 and R35. -/
structure RawParams where
  /-- `NUM` -/
  num : RawNum
  /-- `SQUELCH` -/
  squelch : NUM
  /-- `SIZE_SYNC` -/
  sizeSync : Nat
  /-- `FRAME_BYTES` -/
  frameBytes : Nat
  /-- `TIME_STEP` -/
  timeStep : Nat
  /-- `UNIT_INTERVAL` -/
  unitInterval : Nat
  /-- `THRESH_MODE` -/
  threshMode : ThreshMode
  /-- `THRESH_FIXED` -/
  threshFixed : NUM
  /-- `SENT_HI` -/
  sentHi : NUM
  /-- `SENT_LO` -/
  sentLo : NUM
  /-- `ABORT_ON_POWER_DROP` -/
  abortOnPowerDrop : Bool
deriving DecidableEq, Repr

/-- Why a configuration is refused before the first step (rule R252). -/
inductive ConfigError where
  /-- `TIME_STEP = 0` (rule R35; spec/93 row U9) -/
  | timeStepZero
  /-- `UNIT_INTERVAL = 0` (rule R35; spec/93 row U9) -/
  | unitIntervalZero
  /-- `SENT_LO > SENT_HI` (rule R11; spec/93 row U12) -/
  | sentinelsCrossed
  /-- `FRAME_BYTES` other than 8 (rule R8; spec/93 row U20) -/
  | frameNotEightBytes
  /-- an inexact `NUM` (rule R10; spec/93 row U6) -/
  | numInexact
  /-- an `ARG` without properties A1 to A7 (rule R138; spec/93 row U10) -/
  | argUnlawful
deriving DecidableEq, Repr

/-- The check of a configuration (rules R10, R11, R35): the legal configuration, or the reason for the refusal. -/
def Config.check (r : RawParams) : Except ConfigError Params :=
  match r.num with
  | .inexact => .error .numInexact
  | .unlawfulArg => .error .argUnlawful
  | .admitted c =>
    if ht : 0 < r.timeStep then
      if hu : 0 < r.unitInterval then
        if hs : c.system.le r.sentLo r.sentHi = true then
          if r.frameBytes = Config.frameBytes then
            .ok
              { num := c, squelch := r.squelch, sizeSync := r.sizeSync, timeStep := r.timeStep,
                unitInterval := r.unitInterval, threshMode := r.threshMode, threshFixed := r.threshFixed,
                sentHi := r.sentHi, sentLo := r.sentLo, abortOnPowerDrop := r.abortOnPowerDrop,
                timeStep_pos := ht, unitInterval_pos := hu, sent_le := hs }
          else .error .frameNotEightBytes
        else .error .sentinelsCrossed
      else .error .unitIntervalZero
    else .error .timeStepZero

/-! ### The parameters the spec leaves OPEN (list at the end of `spec/92_eei_decisions.md`), log entry 3 -/

/-- One less than the OPEN `TIME_STEP` (decision D6), so that `TIME_STEP >= 1` holds of every value. -/
opaque Config.timeStepLess1 : Nat

/-- The OPEN `THRESH_MODE` (decision D8). -/
opaque Config.threshMode : ThreshMode

/-- The OPEN `THRESH_FIXED` (decision D8). -/
opaque Config.threshFixed : NUM

/-- One of the two OPEN sentinels (decision D10); the smaller is `SENT_LO`. -/
opaque Config.sentinelA : NUM

/-- The other OPEN sentinel (decision D10); the larger is `SENT_HI`. -/
opaque Config.sentinelB : NUM

/-- The reference configuration of rule R8: the document's values (`SQUELCH = 4/5`, `SIZE_SYNC = 24`,
`UNIT_INTERVAL` from `BIT_RATE = 152381`, `NUM` the exact rationals with the angle of name 0, itself opaque), the default `ABORT_ON_POWER_DROP = false` (decision D14), and the OPEN
parameters left open. -/
def Config.params : Params :=
  { num := .rationals 0
    squelch := 4 / 5
    sizeSync := 24
    timeStep := Config.timeStepLess1 + 1
    unitInterval := Config.unitIntervalOf Config.bitRate
    threshMode := Config.threshMode
    threshFixed := Config.threshFixed
    sentHi := max Config.sentinelA Config.sentinelB
    sentLo := min Config.sentinelA Config.sentinelB
    abortOnPowerDrop := false
    timeStep_pos := Nat.succ_pos _
    unitInterval_pos := by decide
    sent_le := decide_eq_true min_le_max }

end Sys2Proof
end

