-- ==== Sys2Proof/Syntax.lean ====
section
/-! DEFINITION. The operations of the FSK discriminator, one constructor per row of `spec/opcode_table.json`:
the input events (format IN), the end of the stimulus, the micro-operations (format UOP), the button codes
(format NIB), the Packet Frame (format FRAME), the output events (format OUT) and the identifier bit map
(format PERM). Rule R6 says how these play the part of instructions. -/

namespace Sys2Proof

/-- A Choice: the closed enumeration of rule R215 with the explicit sixth value of rule R216. -/
inductive Choice where
  | A
  | B
  | C
  | D
  | E
  | unrecognized
deriving DecidableEq, Repr

/-- The cause of a framing failure, `out_cause` (rules R85, R245). -/
inductive Cause where
  /-- bit index overflow, code 0 (rule R246) -/
  | overflow
  /-- burst ends early, code 1 (rule R247) -/
  | powerDrop
deriving DecidableEq, Repr

/-- The operand of `SMP`: the two data wires (rule R110), or the test point of rule R100 that stands in for `DEMOD`
(`D d` is `inject (some d)`, `DX` is `inject none`). -/
inductive SmpOperand where
  /-- `S i q`: the data wires -/
  | wires (x : Sample)
  /-- `D d` and `DX`: a discriminator pair in place of `DEMOD` -/
  | inject (disc : Option NUM)
deriving DecidableEq, Repr

/-- The operations. Operands are the transients a rule names (`s`, `t`, `d`, `level`, `k`, `b`); a register
operand (`PREV`, `DMIN`, `THRESH`, ...) is read from the state. -/
inductive Instr where
  /-- `RST` (rule R225) -/
  | rst
  /-- `CANCEL` (rule R226) -/
  | cancel
  /-- `SMP(s)` (rule R110) -/
  | smp (x : SmpOperand)
  /-- `IDLE` (rule R227) -/
  | idle
  /-- `EOS` (rule R231) -/
  | eos
  /-- `SCAN` of the sample `s` (rules R111, R112) -/
  | scan (x : Sample)
  /-- `SQL(s)` at time `t` (rules R125, R127) -/
  | sql (x : Sample) (t : Nat)
  /-- `DEMOD(s, PREV)` (rule R135) -/
  | demod (x : Sample)
  /-- `SYNCACC(dv, d, DMIN, DMAX)`; the pair `(dv, d)` as an option (rule R150) -/
  | syncacc (disc : Option NUM)
  /-- `THR(lo, hi)` (rule R152) -/
  | thr (lo hi : NUM)
  /-- `ENTERDATA(t)` (rule R153) -/
  | enterdata (t : Nat)
  /-- `SLICE(d, THRESH)` (rule R154) -/
  | slice (d : NUM)
  /-- `RUN(t, level)` (rules R156 to R160) -/
  | run (t : Nat) (level : Bool)
  /-- `PLACE(k, b)` (rules R180, R181) -/
  | place (k : Nat) (b : Bool)
  /-- `CHK()` (rule R190) -/
  | chk
  /-- `DESCR()` (rule R200) -/
  | descr
  /-- `CHOICE()` (rule R215) -/
  | choice
  /-- `REPORT` of an identifier, a choice and a raw nibble (rule R229) -/
  | report (id : Ident) (c : Choice) (nib : Nibble)
  /-- `DISCARD` (rule R230) -/
  | discard
  /-- button code `0x1` (rule R91) -/
  | nibA
  /-- button code `0x5` (rule R91) -/
  | nibB
  /-- button code `0xD` (rule R91) -/
  | nibC
  /-- button code `0xE` (rule R91) -/
  | nibD
  /-- button code `0xA` (rule R91) -/
  | nibE
  /-- one of the eleven unmapped codes (rule R92) -/
  | nibUnrecognized (n : Nibble)
  /-- the Packet Frame by its fields: address, `in0`, `in1`, `in2`, high nibble of `in3`, `nib`, `csum` (rule R87) -/
  | frame (addr : BitVec 24) (in0 in1 in2 : Byte) (in3hi nib : Nibble) (csum : Byte)
  /-- output event `NONE` (rule R85) -/
  | outNone
  /-- output event `REPORT` (rules R85, R86) -/
  | outReport (id : Ident) (c : Choice) (nib : Nibble)
  /-- output event `FRAMING_FAIL` (rules R85, R246, R247) -/
  | outFramingFail (cause : Cause)
  /-- output event `CHECKSUM_FAIL` (rules R85, R248) -/
  | outChecksumFail
  /-- the identifier bit map on `in0 in1 in2 in3` (rule R89) -/
  | perm (in0 in1 in2 in3 : Byte)
deriving DecidableEq, Repr

/-- The names of the fourteen micro-operations of rule R97, the rows of format UOP. -/
inductive Uop where
  | scan
  | sql
  | demod
  | syncacc
  | thr
  | enterdata
  | slice
  | run
  | place
  | chk
  | descr
  | choice
  | report
  | discard
deriving DecidableEq, Repr

/-- The micro-operation a term is an invocation of, if it is one. -/
def Instr.uop : Instr → Option Uop
  | .scan _ => some .scan
  | .sql _ _ => some .sql
  | .demod _ => some .demod
  | .syncacc _ => some .syncacc
  | .thr _ _ => some .thr
  | .enterdata _ => some .enterdata
  | .slice _ => some .slice
  | .run _ _ => some .run
  | .place _ _ => some .place
  | .chk => some .chk
  | .descr => some .descr
  | .choice => some .choice
  | .report _ _ _ => some .report
  | .discard => some .discard
  | .rst | .cancel | .smp _ | .idle | .eos | .nibA | .nibB | .nibC | .nibD | .nibE | .nibUnrecognized _
  | .frame _ _ _ _ _ _ _ | .outNone | .outReport _ _ _ | .outFramingFail _ | .outChecksumFail | .perm _ _ _ _ => none

/-- One line of a stimulus. The hardware's own are `port` (the five input wires, rule R82) and the end `eos`;
`inject` is the test point of rule R100. The last four present a word of a format other than IN by itself: they are
the model's own access to those formats (log entry 5), never part of a stimulus of the hardware. -/
inductive Line where
  /-- control word and data wires (rule R82) -/
  | port (c : ControlWord) (x : Sample)
  /-- `D d` or `DX` (rule R100) -/
  | inject (disc : Option NUM)
  /-- `EOS` (rule R231) -/
  | eos
  /-- a word of format NIB -/
  | nib (w : Nibble)
  /-- a word of format FRAME, frame bit index 0 leftmost (rule R87) -/
  | frame (w : BitVec 64)
  /-- a word of format OUT, `out_kind` leftmost (rule R85) -/
  | out (w : BitVec 42)
  /-- a word of format PERM, bit 7 of `in0` leftmost (rule R89) -/
  | perm (w : BitVec 32)
deriving DecidableEq, Repr

end Sys2Proof
end

