-- ==== Sys2Proof/WellFormed.lean ====
section
/-! DEFINITION. Which terms of `Instr` the encoding tables admit. -/

namespace Sys2Proof

/-- The five mapped button codes of rule R91. -/
def mappedCodes : List Nibble := [0x1, 0x5, 0xD, 0xE, 0xA]

/-- A term is well formed if its operands are ones its row admits: `NIB_UNRECOGNIZED` holds one of the eleven unmapped
codes (rule R92), and `PLACE` a bit index in `[0, 64)` (rule R181: any other names no cell and is the framing failure). -/
def Instr.WellFormed : Instr → Bool
  | .nibUnrecognized n => !(mappedCodes.contains n)
  | .place k _ => decide (k < 64)
  | .rst | .cancel | .smp _ | .idle | .eos | .scan _ | .sql _ _ | .demod _ | .syncacc _ | .thr _ _ | .enterdata _
  | .slice _ | .run _ _ | .chk | .descr | .choice | .report _ _ _ | .discard | .nibA | .nibB | .nibC | .nibD | .nibE
  | .frame _ _ _ _ _ _ _ | .outNone | .outReport _ _ _ | .outFramingFail _ | .outChecksumFail | .perm _ _ _ _ => true

end Sys2Proof
end

