-- ==== Sys2Proof/Decode.lean ====
section
/-! DEFINITION. The formats of `spec/30_encoding.md`: decoding of a stimulus line (total, an undecodable word
rejected by name), the encoder written from the same tables, the phase codes of format UOP with the operation map
of rule R96, and the layout of a word as bytes. -/

namespace Sys2Proof

/-- Why a word decodes to no operation. -/
inductive DecodeError where
  /-- no format of rule R80 has a word of this many bytes -/
  | noSuchLength
  /-- a one-byte word with a bit set above those of formats IN and NIB, or a format-OUT word above its 42 bits -/
  | bitsAboveFormat
  /-- an `out_kind` with a payload wire set that rule R85 says is 0 -/
  | payloadNotZero
  /-- `out_choice` code 5 or 6, never produced (rule R93) -/
  | choiceCode
deriving DecidableEq, Repr

/-! ### Format IN -/

/-- The match/mask rows of rule R83, first match wins. -/
def inTable : List (ControlWord × ControlWord × (Sample → Instr)) :=
  [(0b100, 0b100, fun _ => .rst),
   (0b110, 0b010, fun _ => .cancel),
   (0b111, 0b001, fun x => .smp (.wires x)),
   (0b111, 0b000, fun _ => .idle)]

/-- Decoding of the control word (rule R83); the data wires are read only by `SMP`. Every word matches a row. -/
def decodeIn (c : ControlWord) (x : Sample) : Instr :=
  match inTable.find? (fun row => c &&& row.1 == row.2.1) with
  | some row => row.2.2 x
  | none => .idle

/-! ### Format NIB -/

/-- The button code table of rule R91, a 4-bit exact match. -/
def nibTable : List (Nibble × Instr) :=
  [(0x1, .nibA), (0x5, .nibB), (0xD, .nibC), (0xE, .nibD), (0xA, .nibE)]

/-- Decoding of a button code (rules R91, R92): the eleven other values are `UNRECOGNIZED`. -/
def decodeNib (n : Nibble) : Instr := (nibTable.lookup n).getD (.nibUnrecognized n)

/-! ### Formats FRAME and PERM -/

/-- The fields of the 64-bit pattern of rule R87, bit index 0 leftmost. -/
def decodeFrame (w : BitVec 64) : Instr :=
  .frame (w.extractLsb' 40 24) (w.extractLsb' 32 8) (w.extractLsb' 24 8) (w.extractLsb' 16 8) (w.extractLsb' 12 4)
    (w.extractLsb' 8 4) (w.extractLsb' 0 8)

/-- The 32 input bits of format PERM in the order `in0 in1 in2 in3`, bit 7 of each first (rule R89). -/
def decodePerm (w : BitVec 32) : Instr :=
  .perm (w.extractLsb' 24 8) (w.extractLsb' 16 8) (w.extractLsb' 8 8) (w.extractLsb' 0 8)

/-! ### Format OUT -/

/-- The 3-bit code of `out_choice` (rule R93). -/
def Choice.code : Choice → BitVec 3
  | .A => 0
  | .B => 1
  | .C => 2
  | .D => 3
  | .E => 4
  | .unrecognized => 7

/-- The choice of a code; 5 and 6 are never produced (rule R93). -/
def Choice.ofCode (c : BitVec 3) : Option Choice :=
  [Choice.A, .B, .C, .D, .E, .unrecognized].find? (fun x => x.code == c)

/-- The 1-bit code of `out_cause` (rule R85). -/
def Cause.code : Cause → BitVec 1
  | .overflow => 0
  | .powerDrop => 1

/-- The four identifier bytes as 32 wires, `out0` first (rule R86). -/
def Ident.word (id : Ident) : BitVec 32 := id.out0 ++ id.out1 ++ id.out2 ++ id.out3

/-- The identifier of 32 wires, `out0` first (rule R86). -/
def Ident.ofWord (w : BitVec 32) : Ident :=
  ⟨w.extractLsb' 24 8, w.extractLsb' 16 8, w.extractLsb' 8 8, w.extractLsb' 0 8⟩

/-- The wires of the output port in the order of rule R85: `out_kind`, `out_cause`, `out_id`, `out_choice`, `out_nib`. -/
def outWord (kind : BitVec 2) (cause : BitVec 1) (id : BitVec 32) (choice : BitVec 3) (nib : Nibble) : BitVec 42 :=
  kind ++ cause ++ id ++ choice ++ nib

/-- Decoding of the output wires by `out_kind` (rule R85); a wire the table says is 0 must be 0. -/
def decodeOut (w : BitVec 42) : Except DecodeError Instr :=
  match (w.extractLsb' 40 2).toNat with
  | 0 => if w.extractLsb' 0 40 = 0 then .ok .outNone else .error .payloadNotZero
  | 1 =>
    if w.extractLsb' 39 1 = 0 then
      match Choice.ofCode (w.extractLsb' 4 3) with
      | some c => .ok (.outReport (Ident.ofWord (w.extractLsb' 7 32)) c (w.extractLsb' 0 4))
      | none => .error .choiceCode
    else .error .payloadNotZero
  | 2 =>
    if w.extractLsb' 0 39 = 0 then
      .ok (.outFramingFail (if w.extractLsb' 39 1 = 0 then .overflow else .powerDrop))
    else .error .payloadNotZero
  | _ => if w.extractLsb' 0 40 = 0 then .ok .outChecksumFail else .error .payloadNotZero

/-! ### Format UOP -/

/-- The phase codes under which a micro-operation is selected: the `encoding` column of its row in
`spec/opcode_table.json` (`pp`, `00`, `01`, `0p`, `10`), with the row's own restriction on `p`. -/
def Uop.phaseCodes : Uop → List PhaseCode
  | .scan => [0b00, 0b01, 0b10]
  | .sql => [0b00]
  | .demod => [0b01, 0b10]
  | .syncacc => [0b01]
  | .thr => [0b00, 0b01]
  | .enterdata => [0b00, 0b01]
  | .slice => [0b10]
  | .run => [0b10]
  | .place => [0b10]
  | .chk => [0b10]
  | .descr => [0b10]
  | .choice => [0b10]
  | .report => [0b10]
  | .discard => [0b01, 0b10]

/-- The conditions of the brackets of rule R96. -/
inductive UopCond where
  /-- no bracket -/
  | always
  /-- at the trigger, `THRESH_MODE` not `PREAMBLE` -/
  | triggerNoPreamble
  /-- `ABORT_ON_POWER_DROP` and low power; the step ends there -/
  | powerDrop
  /-- the preamble window is closed -/
  | windowClosed
  /-- the level flips -/
  | flip
  /-- the run overflows the frame; the step ends there -/
  | overflow
  /-- the run fits: once for each of its `n` bits -/
  | eachBit
  /-- the frame is full -/
  | full
  /-- the frame is full and valid -/
  | valid
deriving DecidableEq, Repr

/-- The operation map of rule R96 for an `SMP`: the row of each phase code, in the order of execution, every operation
with the condition it runs under (`SLICE`, and all after it, only for a valid discriminator value: rule R113). -/
def uopRow (p : PhaseCode) : List (UopCond × Uop) :=
  match p.toNat with
  | 0 => [(.always, .scan), (.always, .sql), (.triggerNoPreamble, .thr), (.triggerNoPreamble, .enterdata)]
  | 1 =>
    [(.always, .scan), (.powerDrop, .discard), (.always, .demod), (.always, .syncacc), (.windowClosed, .thr),
     (.windowClosed, .enterdata)]
  | 2 =>
    [(.always, .scan), (.powerDrop, .discard), (.always, .demod), (.always, .slice), (.flip, .run),
     (.overflow, .discard), (.eachBit, .place), (.full, .chk), (.valid, .descr), (.valid, .choice), (.valid, .report),
     (.full, .discard)]
  | _ => []

/-- The micro-operations a phase code selects, in the order of rule R96, an operation at each place its row has it. -/
def decodeUop (p : PhaseCode) : List Uop := (uopRow p).map Prod.snd

/-! ### Lines and bytes -/

/-- Decoding of a stimulus line to the operation it is. Total; rejects by name. -/
def decode : Line → Except DecodeError Instr
  | .port c x => .ok (decodeIn c x)
  | .inject d => .ok (.smp (.inject d))
  | .eos => .ok .eos
  | .nib w => .ok (decodeNib w)
  | .frame w => .ok (decodeFrame w)
  | .out w => decodeOut w
  | .perm w => .ok (decodePerm w)

/-- The line of an operation, from the same tables. A micro-operation has none: its only code is the value of `PHASE`
(`Uop.phaseCodes`), which selects several (rule R95). -/
def encode : Instr → Option Line
  | .rst => some (.port 0b100 .origin)
  | .cancel => some (.port 0b010 .origin)
  | .smp (.wires x) => some (.port 0b001 x)
  | .smp (.inject d) => some (.inject d)
  | .idle => some (.port 0b000 .origin)
  | .eos => some .eos
  | .scan _ | .sql _ _ | .demod _ | .syncacc _ | .thr _ _ | .enterdata _ | .slice _ | .run _ _ | .place _ _
  | .chk | .descr | .choice | .report _ _ _ | .discard => none
  | .nibA => some (.nib 0x1)
  | .nibB => some (.nib 0x5)
  | .nibC => some (.nib 0xD)
  | .nibD => some (.nib 0xE)
  | .nibE => some (.nib 0xA)
  | .nibUnrecognized n => some (.nib n)
  | .frame addr in0 in1 in2 in3hi nib csum => some (.frame (addr ++ in0 ++ in1 ++ in2 ++ in3hi ++ nib ++ csum))
  | .outNone => some (.out (outWord 0 0 0 0 0))
  | .outReport id c nib => some (.out (outWord 1 0 id.word c.code nib))
  | .outFramingFail cause => some (.out (outWord 2 cause.code 0 0 0))
  | .outChecksumFail => some (.out (outWord 3 0 0 0 0))
  | .perm in0 in1 in2 in3 => some (.perm (in0 ++ in1 ++ in2 ++ in3))

/-- Bytes, first bit first, as one number. -/
def numberOfBytes (bs : List Byte) : Nat := bs.foldl (fun n b => 256 * n + b.toNat) 0

/-- The bytes of a word of `nbits` bits, the byte with the leftmost bits of the row's pattern first. -/
def bytesOfNumber (nbits w : Nat) : List Byte :=
  let n := (nbits + 7) / 8
  (List.range n).map (fun j => BitVec.ofNat 8 (w / 256 ^ (n - 1 - j)))

/-- The line a word stands for: its length tells the format (rule R80: each is of one fixed length). Where one byte
fits formats IN and NIB both, IN wins, since all eight control words are events (rule R83); the empty word is `EOS`,
which has no bits. A one-byte word of format IN has the three control wires only: the two data wires of the event
(rule R82) are taken as 0 and 0, so the word 1 is the sample (0, 0) (DESIGN CHOICE, log entry 8). -/
def lineOfBytes (bs : List Byte) : Except DecodeError Line :=
  let w := numberOfBytes bs
  match bs.length with
  | 0 => .ok .eos
  | 1 =>
    if w < 8 then .ok (.port (BitVec.ofNat 3 w) .origin)
    else if w < 16 then .ok (.nib (BitVec.ofNat 4 w))
    else .error .bitsAboveFormat
  | 4 => .ok (.perm (BitVec.ofNat 32 w))
  | 6 => if w < 2 ^ 42 then .ok (.out (BitVec.ofNat 42 w)) else .error .bitsAboveFormat
  | 8 => .ok (.frame (BitVec.ofNat 64 w))
  | _ => .error .noSuchLength

/-- The operation a row of bytes decodes to, total on any bytes. -/
def decodeBytes (bs : List Byte) : Except DecodeError Instr :=
  match lineOfBytes bs with
  | .ok ℓ => decode ℓ
  | .error e => .error e

/-- The operation the decoder reads from a word of the opcode table, its bits numbered as the table numbers them. -/
def decodeTableWord (nbits w : Nat) : Option Instr :=
  match decodeBytes (bytesOfNumber nbits w) with
  | .ok i => some i
  | .error _ => none

end Sys2Proof
end

