-- ==== Sys2Proof/Machine/State.lean ====
section
/-! DEFINITION. The state of the block (rule R20: ten registers and the frame store), the wires of one step
(transients of rule R39 and the output port of rule R85), the configuration constants and the stimulus the
environment presents; the reasons to stop; and the state after reset (rules R40, R280). -/

namespace Sys2Proof.Machine

/-- `PHASE`, the sequencer register (rule R21). -/
inductive Phase where
  /-- the Burst Detector runs -/
  | search
  /-- preamble window -/
  | sync
  /-- slicing and framing -/
  | data
  /-- cancelled -/
  | halt
deriving DecidableEq, Repr

/-- The output event of a step (rule R85). -/
inductive OutEvent where
  /-- `NONE` -/
  | none
  /-- `REPORT` with `out_id`, `out_choice`, `out_nib` -/
  | report (id : Ident) (c : Choice) (nib : Nibble)
  /-- `FRAMING_FAIL` with `out_cause` -/
  | framingFail (cause : Cause)
  /-- `CHECKSUM_FAIL` -/
  | checksumFail
deriving DecidableEq, Repr

/-- The transients of rule R39 (with the predicates of rule R34 and the checksum field of rule R88): the results a
micro-operation leaves for the next one. They exist only inside one step: `step` clears them (log entry 6). -/
structure Wires where
  /-- the current sample `s` -/
  x : Sample
  /-- its power `p` -/
  p : NUM
  /-- the predicate `trig` -/
  trig : Bool
  /-- real part of `s * conj(PREV)` -/
  re : NUM
  /-- imaginary part of `s * conj(PREV)` -/
  im : NUM
  /-- the discriminator pair `(dv, d)`: `none` is `dv` false -/
  disc : Option NUM
  /-- the predicate `level` -/
  level : Bool
  /-- the run length `n` -/
  n : Nat
  /-- the checksum verdict `valid` -/
  valid : Bool
  /-- scrambled byte `in0` -/
  in0 : Byte
  /-- scrambled byte `in1` -/
  in1 : Byte
  /-- scrambled byte `in2` -/
  in2 : Byte
  /-- scrambled byte `in3` -/
  in3 : Byte
  /-- the checksum field `csum` -/
  csum : Byte
  /-- the identifier bytes `out0..out3` -/
  id : Ident
  /-- the nibble `nib` -/
  nib : Nibble
  /-- the choice; `none` when no button code has been decoded -/
  choice : Option Choice
deriving DecidableEq, Repr

/-- No transient: the wires between steps. -/
def Wires.idle : Wires :=
  { x := .origin, p := 0, trig := false, re := 0, im := 0, disc := none, level := false, n := 0, valid := false,
    in0 := 0, in1 := 0, in2 := 0, in3 := 0, csum := 0, id := .zero, nib := 0, choice := none }

/-- The frame store as a list of (byte offset, byte) pairs in canonical form: offsets strictly rising and below 8, no
byte equal to what an unlisted offset reads as (`Memory.wf` in Machine/Ops.lean). -/
abbrev Memory := List Host.Cell

/-- Everything the machine is between steps. The first eleven fields are the state of rule R20. -/
structure State where
  /-- `PHASE`, 2 bits (rule R21) -/
  phase : Phase
  /-- `ET`, Elapsed Time, unbounded (rule R22) -/
  et : Nat
  /-- `PREV`, the previous sample (rule R23) -/
  prev : Sample
  /-- `T_SYNC0`, time of the trigger (rule R24) -/
  tSync0 : Nat
  /-- `DMIN`, least discriminator of the window (rule R25) -/
  dmin : NUM
  /-- `DMAX`, greatest discriminator of the window (rule R25) -/
  dmax : NUM
  /-- `THRESH`, the decision threshold (rule R26) -/
  thresh : NUM
  /-- `LVL`, the previous binary level (rule R27) -/
  lvl : Bool
  /-- `T_FLIP`, time of the last level change (rule R28) -/
  tFlip : Nat
  /-- `BITIDX`, bits placed so far, 0 to 64, held in 7 bits (rule R29) -/
  bitIdx : BitVec 7
  /-- `FRAME[0..7]`, the Packet Frame (rules R30, R60) -/
  frame : Memory
  /-- the output port, as the last step drove it (rule R85) -/
  out : OutEvent
  /-- the transients of the step in progress (rule R39) -/
  wires : Wires
  /-- the input events the environment will present, next first (rules R7, R82; log entry 1) -/
  stimulus : List Line
  /-- the configuration constants, never written (rules R8, R35; log entry 3) -/
  cfg : Params
deriving DecidableEq, Repr

/-- Why the machine stops with a fault. -/
inductive Fault where
  /-- A write of the frame store at a byte offset that rule R60 says does not exist (8 or more). Raised by
  `Memory.store`. Safe: it stops where the block has no behaviour. No instruction reaches it: `PLACE` tests its bit
  index first (rule R181), and the readers use fixed offsets (rule R65). -/
  | noSuchCell (offset : Nat)
deriving DecidableEq, Repr

/-- Why the machine refuses. -/
inductive Refusal where
  /-- An instruction without a meaning; raised only by arms of `exec` not yet written. Safe. No arm raises it. -/
  | notModelled (mnemonic : String)
  /-- A line that decodes to no operation. Raised by `step`. Safe. No line of the hardware (`port`, `inject`, `eos`)
  does this: every control word decodes (rule R83). -/
  | undecodable (e : DecodeError)
  /-- A test-point line `D` or `DX` in phase `SEARCH` or `HALT`: the stimulus is refused (rule R100; spec/93 row U18).
  Raised by `execSmp`. Safe. -/
  | testPointOutsideAttempt
  /-- An illegal configuration, refused before the first step (rules R35, R252). Raised by `start`. Safe. -/
  | illegalConfiguration (e : ConfigError)
deriving DecidableEq, Repr

/-- The reset state of rules R40 and R280 under a configuration: every register at its `RESETVAL`, the output `NONE`.
The sentinels of `DMIN` and `DMAX` are those of general knowledge K3 (PRESUMED, log entry 19). -/
def State.resetWith (c : Params) : State :=
  { phase := .search, et := 0, prev := .origin, tSync0 := 0, dmin := c.sentHi, dmax := c.sentLo, thresh := 0,
    lvl := false, tFlip := 0, bitIdx := 0, frame := [], out := .none, wires := .idle, stimulus := [], cfg := c }

/-- The machine right after reset, under the reference configuration with its OPEN parameters open. -/
def State.reset : State := .resetWith Config.params

end Sys2Proof.Machine
end

