-- ==== Sys2Proof/Machine/Ops.lean ====
section
/-! DEFINITION. The named operations over the frame store and the registers, the attempt reset `DISCARD`, and the
one shared way a failure is raised (rule R13: `raise X(info)`). -/

namespace Sys2Proof.Machine

/-! ### The frame store -/

/-- What an unlisted cell reads as: the frame is zero-initialized (rule R30). -/
def Memory.unlisted : Byte := 0x00

/-- The canonical form from offset `lo` on: rising offsets below 8, no listed byte equal to `Memory.unlisted`. -/
def Memory.wfFrom : Nat → Memory → Bool
  | _, [] => true
  | lo, (a, v) :: m => decide (lo ≤ a) && decide (a < Config.frameBytes) && !(v == Memory.unlisted) && wfFrom (a + 1) m

/-- The canonical form of the frame store. -/
def Memory.wf (m : Memory) : Bool := Memory.wfFrom 0 m

/-- `FRAME[a]` (rule R13). -/
def Memory.read : Memory → Nat → Byte
  | [], _ => Memory.unlisted
  | (b, v) :: m, a => if a = b then v else read m a

/-- Put byte `v` at offset `a`, keeping the canonical form. -/
def Memory.put : Memory → Nat → Byte → Memory
  | [], a, v => if v = Memory.unlisted then [] else [(a, v)]
  | (b, w) :: m, a, v =>
    if a < b then (if v = Memory.unlisted then (b, w) :: m else (a, v) :: (b, w) :: m)
    else if a = b then (if v = Memory.unlisted then m else (a, v) :: m)
    else (b, w) :: put m a v

/-- `MemWrite(a, 1, v)` (rule R13), faulting at an offset that names no cell (rule R60). -/
def Memory.store (m : Memory) (a : Nat) (v : Byte) : Except Fault Memory :=
  if a < Config.frameBytes then .ok (m.put a v) else .error (.noSuchCell a)

/-- The byte with only bit index `k`'s bit set: `1 << (7 - (k mod 8))` (rule R180). -/
def bitMask (k : Nat) : Byte := (1 : Byte) <<< (7 - k % 8)

/-- The frame bit of index `k`: bit `7 - (k mod 8)` of `FRAME[k div 8]` (rules R12, R60). -/
def Memory.bit (m : Memory) (k : Nat) : Bool := (m.read (k / 8)).getLsbD (7 - k % 8)

/-- `PLACE(k, b)` on the store (rule R180), for `k` in `[0, 64)`: a false bit writes nothing, a true bit is OR-ed in. -/
def Memory.placeBit (m : Memory) (k : Nat) (b : Bool) : Memory :=
  if b then m.put (k / 8) (m.read (k / 8) ||| bitMask k) else m

/-- `n` placements of `b` at bit indices `k`, `k + 1`, ... (rule R158). -/
def Memory.placeRun (m : Memory) (k n : Nat) (b : Bool) : Memory :=
  match n with
  | 0 => m
  | n + 1 => (m.placeBit k b).placeRun (k + 1) n b

/-! ### Phase codes -/

/-- The 2-bit code of `PHASE` (rules R21, R95). -/
def Phase.code : Phase → PhaseCode
  | .search => 0
  | .sync => 1
  | .data => 2
  | .halt => 3

/-- The phase of a 2-bit code (rule R21). -/
def Phase.ofCode (c : PhaseCode) : Phase :=
  match c.toNat with
  | 0 => .search
  | 1 => .sync
  | 2 => .data
  | _ => .halt

/-- Whether the phase code selects a micro-operation (rule R95): the code is one its row has, and for `THR` and
`ENTERDATA` in phase `SEARCH` the mode is not `PREAMBLE` (the row's note on `p`, rule R96). The other conditions in the
brackets of rule R96 (the trigger, the closed window, the flip, the end of an attempt) are not asked of an operation
executed by itself (DESIGN CHOICE, log entry 27). -/
def State.selects (s : State) (u : Uop) : Bool :=
  u.phaseCodes.contains s.phase.code &&
    !((u == .thr || u == .enterdata) && s.phase == .search && s.cfg.threshMode == .preamble)

/-- A micro-operation runs where the phase code selects it; elsewhere the sequencer does not perform it and nothing
changes (log entry 7). -/
def State.whenSelected (s : State) (u : Uop) (f : State → State) : Host.Outcome State Fault Refusal :=
  .next (if s.selects u then f s else s)

/-! ### The ports and the step frame -/

/-- Take a line off the stimulus. -/
def State.fetch (s : State) (rest : List Line) : State := { s with stimulus := rest }

/-- A step begins: a step that sets no output outputs `NONE` (rule R13), and no transient is left from before. -/
def State.openStep (s : State) : State := { s with out := .none, wires := .idle }

/-- A step ends: its transients cease (rule R39). -/
def State.closeStep (s : State) : State := { s with wires := .idle }

/-- `out <- e` (rule R13). -/
def State.drive (s : State) (e : OutEvent) : State := { s with out := e }

/-- The transients as a micro-operation leaves them. -/
def State.setWires (s : State) (w : Wires) : State := { s with wires := w }

/-! ### Time and the previous sample -/

/-- `t`, the time of the sample being processed: `ET + TIME_STEP` (rule R111). -/
def State.now (s : State) : Nat := s.et + s.cfg.timeStep

/-- The time part of `SCAN`: `ET <- t` (rule R111). -/
def State.tick (s : State) : State := { s with et := s.now }

/-- `SCAN`: `ET <- t` and `PREV <- s` (rules R111, R112). -/
def State.scan (s : State) (x : Sample) : State := { s with et := s.now, prev := x }

/-! ### The end of an attempt: failures and resets -/

/-- `DISCARD`, the attempt reset: every register and every frame byte takes its `RESETVAL` (rules R40, R230); it sets
no output. There is no return from a failure (rule R257): the next sample starts a new attempt in `SEARCH`.
The sentinels of `DMIN` and `DMAX` are those of general knowledge K3 (PRESUMED, log entry 19). -/
def State.discard (s : State) : State :=
  { s with
    phase := .search, et := 0, prev := .origin, tSync0 := 0, dmin := s.cfg.sentHi, dmax := s.cfg.sentLo, thresh := 0,
    lvl := false, tFlip := 0, bitIdx := 0, frame := [] }

/-- `raise X(info)` (rules R13, R256): the output event is `X(info)` and `DISCARD` is performed; nothing is saved. -/
def State.raise (s : State) (e : OutEvent) : State := s.discard.drive e

/-- `CANCEL` outside `HALT`: every register but `PHASE` at its `RESETVAL`, `PHASE <- HALT` (rule R226). -/
def State.cancelled (s : State) : State := { s.discard with phase := .halt }

/-! ### The phase transitions of an attempt -/

/-- `T_SYNC0 <- t` (rule R127). -/
def State.latchTrigger (s : State) (t : Nat) : State := { s with tSync0 := t }

/-- `PHASE <- SYNC` (rule R127). -/
def State.enterSync (s : State) : State := { s with phase := .sync }

/-- `THRESH <- v` (rule R26). -/
def State.setThresh (s : State) (v : NUM) : State := { s with thresh := v }

/-- `ENTERDATA(t)`: `PHASE <- DATA`, `LVL <- false`, `T_FLIP <- t` (rule R153). -/
def State.enterData (s : State) (t : Nat) : State := { s with phase := .data, lvl := false, tFlip := t }

/-- `DMIN <- lo`, `DMAX <- hi` (rule R150). -/
def State.setRange (s : State) (lo hi : NUM) : State := { s with dmin := lo, dmax := hi }

/-- Emission and bookkeeping of a run of `n` bits that fits (rules R158, R159): `n` placements of the OLD `LVL` from
`BITIDX` on, then `BITIDX <- BITIDX + n`, `LVL <- level`, `T_FLIP <- t`. -/
def State.emit (s : State) (t : Nat) (level : Bool) (n : Nat) : State :=
  { s with
    frame := s.frame.placeRun s.bitIdx.toNat n s.lvl, bitIdx := BitVec.ofNat 7 (s.bitIdx.toNat + n), lvl := level,
    tFlip := t }

end Sys2Proof.Machine
end

