-- ==== Sys2Proof/Machine/Operands.lean ====
section
/-! DEFINITION. The operand forms: the power and the products of a sample (rules R126, R135), and the fields of the
Packet Frame (rule R88). -/

namespace Sys2Proof.Machine

/-- `pow(s) = s.i*s.i + s.q*s.q` (rules R13, R126). -/
def pow (N : NumSystem) (x : Sample) : NUM := N.add (N.mul x.i x.i) (N.mul x.q x.q)

/-- Real part of `s * conj(PREV)` (rule R135). -/
def crossRe (N : NumSystem) (x prev : Sample) : NUM := N.add (N.mul x.i prev.i) (N.mul x.q prev.q)

/-- Imaginary part of `s * conj(PREV)` (rule R135). -/
def crossIm (N : NumSystem) (x prev : Sample) : NUM := N.sub (N.mul x.q prev.i) (N.mul x.i prev.q)

/-- `in0 = FRAME[3]` (rule R88). -/
def Memory.in0 (m : Memory) : Byte := m.read 3

/-- `in1 = FRAME[4]` (rule R88). -/
def Memory.in1 (m : Memory) : Byte := m.read 4

/-- `in2 = FRAME[5]` (rule R88). -/
def Memory.in2 (m : Memory) : Byte := m.read 5

/-- `in3 = FRAME[6]`, the whole byte, button nibble included (rules R61, R88). -/
def Memory.in3 (m : Memory) : Byte := m.read 6

/-- `nib = FRAME[6] & 0x0F` (rule R88). -/
def Memory.nib (m : Memory) : Nibble := (m.read 6).extractLsb' 0 4

/-- `csum = FRAME[7]` (rule R88). -/
def Memory.csum (m : Memory) : Byte := m.read 7

end Sys2Proof.Machine
end

