-- ==== Sys2Proof/Machine/Flags.lean ====
section
/-! DEFINITION. The transient predicates of rule R34 and the other conditions of the step of rule R113. The block has
one stored flag, `LVL`; none of these is stored. -/

namespace Sys2Proof.Machine

/-- `trig = (pow(s) >= SQUELCH)`, inclusive (rules R125, R126). -/
def trig (c : Params) (x : Sample) : Bool := c.sys.le c.squelch (pow c.sys x)

/-- The power-drop condition: `ABORT_ON_POWER_DROP` and `pow(s) < SQUELCH` (rule R247). -/
def powerDropped (c : Params) (x : Sample) : Bool := c.abortOnPowerDrop && c.sys.lt (pow c.sys x) c.squelch

/-- `dv`: the product `s * conj(PREV)` is not zero (rules R135, R136). -/
def dv (N : NumSystem) (x prev : Sample) : Bool :=
  !(decide (crossRe N x prev = 0) && decide (crossIm N x prev = 0))

/-- `level = ((d - THRESH) > 0)`, strict (rule R154). -/
def sliceLevel (N : NumSystem) (d thresh : NUM) : Bool := N.lt 0 (N.sub d thresh)

/-- The preamble window has closed: `t - T_SYNC0 >= SIZE_SYNC * UNIT_INTERVAL` (rule R151). -/
def windowClosed (c : Params) (t tSync0 : Nat) : Bool := decide (c.sizeSync * c.unitInterval ≤ t - tSync0)

/-- The checksum verdict: bytes 3 to 6 summed as unsigned naturals, modulo 256, against byte 7 (rule R190). -/
def checksumValid (b3 b4 b5 b6 b7 : Byte) : Bool :=
  decide ((b3.toNat + b4.toNat + b5.toNat + b6.toNat) % 256 = b7.toNat)

end Sys2Proof.Machine
end

