-- ==== Sys2Proof/Machine/Assembler.lean ====
section
/-! DEFINITION. The Packet Assembler (`spec/44_packet_assembler.md`): `PLACE`, and the frame's format (rule R87). -/

namespace Sys2Proof.Machine

/-- `PLACE(k, b)` (rules R180, R181). A bit index of 64 or more is the framing failure whatever `b` is, and the frame is
left unchanged; otherwise a true bit is written and a false bit writes nothing. `BITIDX` is `RUN`'s to advance. -/
def execPlace (k : Nat) (b : Bool) (s : State) : Host.Outcome State Fault Refusal :=
  if Config.frameBits ≤ k then .next (s.drive (.framingFail .overflow))
  else if s.selects .place && b then
    match s.frame.store (k / 8) (s.frame.read (k / 8) ||| bitMask k) with
    | .ok m => .next { s with frame := m }
    | .error e => .fault e
  else .next s

/-- A word of format FRAME: field extraction (rules R87, R88). The address field is read by nothing (rule R61). -/
def execFrame (_addr : BitVec 24) (in0 in1 in2 : Byte) (in3hi nib : Nibble) (csum : Byte) (s : State) :
    Host.Outcome State Fault Refusal :=
  .next (s.setWires { s.wires with
    in0 := in0, in1 := in1, in2 := in2, in3 := in3hi ++ nib, nib := nib, csum := csum })

end Sys2Proof.Machine
end

