-- ==== Sys2Proof/Machine/Output.lean ====
section
/-! DEFINITION. The output port (rules R85, R86): the four rows of format OUT, the wires of an output event, and the
response notation of rule R100. -/

namespace Sys2Proof.Machine

/-- Output event `NONE` (rule R85). -/
def execOutNone (s : State) : Host.Outcome State Fault Refusal := .next (s.drive .none)

/-- Output event `REPORT` (rules R85, R86, R229). -/
def execOutReport (id : Ident) (c : Choice) (nib : Nibble) (s : State) : Host.Outcome State Fault Refusal :=
  .next (s.drive (.report id c nib))

/-- Output event `FRAMING_FAIL` (rules R85, R246, R247). -/
def execOutFramingFail (cause : Cause) (s : State) : Host.Outcome State Fault Refusal :=
  .next (s.drive (.framingFail cause))

/-- Output event `CHECKSUM_FAIL` (rules R85, R248). -/
def execOutChecksumFail (s : State) : Host.Outcome State Fault Refusal := .next (s.drive .checksumFail)

/-- The 42 output wires of an event; a wire its kind does not use is 0 (rule R85). -/
def OutEvent.portWord : OutEvent → BitVec 42
  | .none => outWord 0 0 0 0 0
  | .report id c nib => outWord 1 0 id.word c.code nib
  | .framingFail cause => outWord 2 cause.code 0 0 0
  | .checksumFail => outWord 3 0 0 0 0

/-- An upper-case hexadecimal digit. -/
def hexDigit (n : Nibble) : Char := "0123456789ABCDEF".toList.getD n.toNat '0'

/-- The two digits of a byte. -/
def hexByte (b : Byte) : List Char := [hexDigit (b.extractLsb' 4 4), hexDigit (b.extractLsb' 0 4)]

/-- The letter of a choice, `?` for `UNRECOGNIZED` (rule R100). -/
def choiceLetter : Choice → Char
  | .A => 'A'
  | .B => 'B'
  | .C => 'C'
  | .D => 'D'
  | .E => 'E'
  | .unrecognized => '?'

/-- The response line of an output event in the notation of rule R100, as its characters. -/
def OutEvent.response : OutEvent → List Char
  | .none => "NONE".toList
  | .report id c nib =>
    "REPORT ".toList ++ hexByte id.out0 ++ hexByte id.out1 ++ hexByte id.out2 ++ hexByte id.out3 ++
      [' ', choiceLetter c, ' ', hexDigit nib]
  | .framingFail .overflow => "FRAMING_FAIL OVERFLOW".toList
  | .framingFail .powerDrop => "FRAMING_FAIL POWER_DROP".toList
  | .checksumFail => "CHECKSUM_FAIL".toList

end Sys2Proof.Machine
end

