-- ==== Sys2Proof/Machine/Checksum.lean ====
section
/-! DEFINITION. The Checksum Validator (`spec/45_checksum.md`): `CHK`. -/

namespace Sys2Proof.Machine

/-- `CHK() -> valid` on the frame store (rule R190). -/
def Memory.chk (m : Memory) : Bool := checksumValid m.in0 m.in1 m.in2 m.in3 m.csum

/-- `CHK`: reads `FRAME[3..7]`; its verdict is transient and an invalid frame is no error (rule R190).
Executed by itself in `DATA` it reads the frame as it is, full or not (DESIGN CHOICE, log entry 26). -/
def execChk (s : State) : Host.Outcome State Fault Refusal :=
  s.whenSelected .chk fun s => s.setWires { s.wires with valid := s.frame.chk }

end Sys2Proof.Machine
end

