-- ==== Sys2Proof/Machine/ChoiceMapper.lean ====
section
/-! DEFINITION. The Choice Mapper (`spec/47_choice_mapper.md`): `CHOICE` and the rows of format NIB. -/

namespace Sys2Proof.Machine

/-- The choice of a button code (rules R215, R216). -/
def choiceOf (nib : Nibble) : Choice :=
  if nib = 0x1 then .A
  else if nib = 0x5 then .B
  else if nib = 0xD then .C
  else if nib = 0xE then .D
  else if nib = 0xA then .E
  else .unrecognized

/-- A button code decoded: the pair `(choice, nib)` of rule R215, transient. -/
def State.mapNibble (s : State) (nib : Nibble) (c : Choice) : State :=
  s.setWires { s.wires with nib := nib, choice := some c }

/-- `CHOICE() -> (choice, nib)` (rule R215): reads the low nibble of `FRAME[6]` and nothing else (rule R217).
Executed by itself in `DATA` it reads the frame as it is, full and valid or not (DESIGN CHOICE, log entry 26). -/
def execChoice (s : State) : Host.Outcome State Fault Refusal :=
  s.whenSelected .choice fun s => s.mapNibble s.frame.nib (choiceOf s.frame.nib)

/-- Button code `0x1`: A (rule R91). -/
def execNibA (s : State) : Host.Outcome State Fault Refusal := .next (s.mapNibble 0x1 .A)

/-- Button code `0x5`: B (rule R91). -/
def execNibB (s : State) : Host.Outcome State Fault Refusal := .next (s.mapNibble 0x5 .B)

/-- Button code `0xD`: C (rule R91). -/
def execNibC (s : State) : Host.Outcome State Fault Refusal := .next (s.mapNibble 0xD .C)

/-- Button code `0xE`: D (rule R91). -/
def execNibD (s : State) : Host.Outcome State Fault Refusal := .next (s.mapNibble 0xE .D)

/-- Button code `0xA`: E (rule R91). -/
def execNibE (s : State) : Host.Outcome State Fault Refusal := .next (s.mapNibble 0xA .E)

/-- An unmapped button code: `UNRECOGNIZED` with the raw nibble (rules R92, R216). -/
def execNibUnrecognized (n : Nibble) (s : State) : Host.Outcome State Fault Refusal :=
  .next (s.mapNibble n .unrecognized)

end Sys2Proof.Machine
end

