-- ==== Sys2Proof/Machine/Identifier.lean ====
section
/-! DEFINITION. The Identifier Decoder (`spec/46_identifier_decoder.md`): `DESCR` by its four formulas, and format
PERM by the bit map of rule R89. -/

namespace Sys2Proof.Machine

/-- The four formulas of rule R200, on 8-bit unsigned values. -/
def descramble (in0 in1 in2 in3 : Byte) : Ident :=
  let out0 := (in0 >>> 3) ||| ((in0 &&& 0x04) <<< 5) ||| ((in1 &&& 0x01) <<< 6) ||| ((in2 &&& 0x01) <<< 5)
  let out1 := (in1 >>> 1) ||| ((in0 &&& 0x01) <<< 7) ||| (in2 >>> 7)
  let out2 := ((in2 &&& 0x7C) <<< 1) ||| (in3 >>> 5)
  ⟨out0, out1, out2, out0 ^^^ out1 ^^^ out2⟩

/-- A byte from its eight bits, bit 7 first. -/
def byteOfBits (bs : List Bool) : Byte := bs.foldl (fun w b => (w <<< 1) ||| (if b then 1 else 0)) 0

/-- The bit map of rule R89, one output bit a place, bit 7 first; `out1[0]` is the OR of two bits. -/
def permute (in0 in1 in2 in3 : Byte) : Ident :=
  let a := in0.getLsbD
  let b := in1.getLsbD
  let c := in2.getLsbD
  let d := in3.getLsbD
  let out0 := byteOfBits [a 2, b 0, c 0, a 7, a 6, a 5, a 4, a 3]
  let out1 := byteOfBits [a 0, b 7, b 6, b 5, b 4, b 3, b 2, b 1 || c 7]
  let out2 := byteOfBits [c 6, c 5, c 4, c 3, c 2, d 7, d 6, d 5]
  ⟨out0, out1, out2, out0 ^^^ out1 ^^^ out2⟩

/-- `DESCR()` on the frame store (rule R200). -/
def Memory.descr (m : Memory) : Ident := descramble m.in0 m.in1 m.in2 m.in3

/-- `DESCR`: combinational; reads `FRAME[3..6]`, leaves `in0..in3` and `out0..out3` as transients.
Executed by itself in `DATA` it reads the frame as it is, full and valid or not (DESIGN CHOICE, log entry 26). -/
def execDescr (s : State) : Host.Outcome State Fault Refusal :=
  s.whenSelected .descr fun s =>
    s.setWires { s.wires with
      in0 := s.frame.in0, in1 := s.frame.in1, in2 := s.frame.in2, in3 := s.frame.in3, id := s.frame.descr }

/-- A word of format PERM: the identifier its 32 bits map to (rule R89). -/
def execPerm (in0 in1 in2 in3 : Byte) (s : State) : Host.Outcome State Fault Refusal :=
  .next (s.setWires { s.wires with in0 := in0, in1 := in1, in2 := in2, in3 := in3, id := permute in0 in1 in2 in3 })

/-- The fixture `SCR` of `spec/95_test_vectors.md`: a right inverse of the formulas (rule R204), for tests and
statements only; no operation of the block uses it. -/
def scramble (o0 o1 o2 : Byte) (nib : Nibble) : Byte × Byte × Byte × Byte :=
  (((o0 &&& 0x1F) <<< 3) ||| ((o0 >>> 7) <<< 2) ||| (o1 >>> 7),
   (((o1 >>> 1) &&& 0x3F) <<< 2) ||| ((o0 >>> 6) &&& 1),
   ((o1 &&& 1) <<< 7) ||| ((o2 >>> 3) <<< 2) ||| ((o0 >>> 5) &&& 1),
   ((o2 &&& 7) <<< 5) ||| nib.setWidth 8)

end Sys2Proof.Machine
end

