-- ==== Sys2Proof/Machine/Slicer.lean ====
section
/-! DEFINITION. The Bit Slicer (`spec/43_bit_slicer.md`): `SYNCACC`, `THR`, `ENTERDATA`, `SLICE`, `RUN`, and the work
of one sample in phases `SYNC` and `DATA` (rule R113). -/

namespace Sys2Proof.Machine

/-- `SYNCACC(dv, d, DMIN, DMAX) -> (lo, hi)` (rule R150): an invalid value is excluded from the aggregate. -/
def syncacc (N : NumSystem) (disc : Option NUM) (dmin dmax : NUM) : NUM × NUM :=
  match disc with
  | some d => (N.min dmin d, N.max dmax d)
  | none => (dmin, dmax)

/-- `SYNCACC` on the registers: `DMIN <- lo`, `DMAX <- hi` (rule R150). -/
def State.accumulate (s : State) (disc : Option NUM) : State :=
  s.setRange (syncacc s.cfg.sys disc s.dmin s.dmax).1 (syncacc s.cfg.sys disc s.dmin s.dmax).2

/-- `THR(lo, hi)` by `THRESH_MODE` (rule R152): half the range, not the midpoint (conflict C2). The
sentinels of mode `SENTINEL` are those of general knowledge K3 (PRESUMED, log entry 19). -/
def thr (c : Params) (lo hi : NUM) : NUM :=
  match c.threshMode with
  | .preamble => c.sys.half (c.sys.sub hi lo)
  | .sentinel => c.sys.half (c.sys.sub c.sentLo c.sentHi)
  | .fixed => c.threshFixed

/-- The run length `n = (t - T_FLIP) div UNIT_INTERVAL`, truncated (rule R156). -/
def runLength (c : Params) (t tFlip : Nat) : Nat := (t - tFlip) / c.unitInterval

/-- The completion of a full frame (rule R160): `CHK`; if valid `DESCR`, `CHOICE`, `REPORT`, else `CHECKSUM_FAIL`;
`DISCARD` in either case. -/
def State.complete (s : State) : State :=
  if s.frame.chk then s.raise (.report s.frame.descr (choiceOf s.frame.nib) s.frame.nib)
  else s.raise .checksumFail

/-- `RUN(t, level)` (rules R156 to R160): the capacity check for the whole run before any bit is placed, then emission
and bookkeeping, then completion if the frame is exactly full. -/
def State.run (s : State) (t : Nat) (level : Bool) : State :=
  let n := runLength s.cfg t s.tFlip
  if Config.frameBits < s.bitIdx.toNat + n then s.raise (.framingFail .overflow)
  else if s.bitIdx.toNat + n = Config.frameBits then (s.emit t level n).complete
  else s.emit t level n

/-- The work of one discriminator value in phase `SYNC` (rules R113, R150, R151): accumulate, and at the close of the
window take the threshold from the just-updated range and enter `DATA`. -/
def State.syncSample (s : State) (t : Nat) (disc : Option NUM) : State :=
  let s' := s.accumulate disc
  if windowClosed s.cfg t s.tSync0 then (s'.setThresh (thr s.cfg s'.dmin s'.dmax)).enterData t else s'

/-- The work of one discriminator value in phase `DATA` (rules R113, R155): only a valid value whose level differs from
`LVL` does anything. -/
def State.dataSample (s : State) (t : Nat) (disc : Option NUM) : State :=
  match disc with
  | some d => if sliceLevel s.cfg.sys d s.thresh = s.lvl then s else s.run t (sliceLevel s.cfg.sys d s.thresh)
  | none => s

/-- `SYNCACC` (rule R150). -/
def execSyncacc (disc : Option NUM) (s : State) : Host.Outcome State Fault Refusal :=
  s.whenSelected .syncacc fun s => s.accumulate disc

/-- `THR`: `THRESH <- THR(lo, hi)` (rules R26, R152). By itself it does so also with the window open, and in `SEARCH`
without a trigger (DESIGN CHOICE, log entry 27). -/
def execThr (lo hi : NUM) (s : State) : Host.Outcome State Fault Refusal :=
  s.whenSelected .thr fun s => s.setThresh (thr s.cfg lo hi)

/-- `ENTERDATA(t)` (rule R153). By itself it does so also with the window open, and in `SEARCH` without a trigger
(DESIGN CHOICE, log entry 27). -/
def execEnterdata (t : Nat) (s : State) : Host.Outcome State Fault Refusal :=
  s.whenSelected .enterdata fun s => s.enterData t

/-- `SLICE(d, THRESH) -> level`, transient (rule R154). -/
def execSlice (d : NUM) (s : State) : Host.Outcome State Fault Refusal :=
  s.whenSelected .slice fun s => s.setWires { s.wires with level := sliceLevel s.cfg.sys d s.thresh }

/-- `RUN(t, level)`, with its run length left as a transient (rules R156 to R160). By itself it runs also where `level`
is `LVL`, which is no flip (DESIGN CHOICE, log entry 27; rule R155 performs `RUN` at a flip only). -/
def execRun (t : Nat) (level : Bool) (s : State) : Host.Outcome State Fault Refusal :=
  s.whenSelected .run fun s =>
    (s.setWires { s.wires with level := level, n := runLength s.cfg t s.tFlip }).run t level

end Sys2Proof.Machine
end

