-- ==== Sys2Proof/Machine/Burst.lean ====
section
/-! DEFINITION. The Burst Detector (`spec/41_burst_detector.md`): `SQL` and the trigger. -/

namespace Sys2Proof.Machine

/-- What `SQL` itself writes at the trigger (rules R31, R127): `T_SYNC0 <- t`, and `PHASE <- SYNC` in mode `PREAMBLE`;
in the other modes `THR` and `ENTERDATA` follow as operations of their own (rule R96). -/
def State.sqlTrigger (s : State) (t : Nat) : State :=
  if s.cfg.threshMode = .preamble then (s.latchTrigger t).enterSync else s.latchTrigger t

/-- The whole trigger (rule R127): `SQL`'s writes, then `THR` on the sentinels and `ENTERDATA(t)` unless the mode is
`PREAMBLE`. The trigger sample is not demodulated. -/
def State.trigger (s : State) (t : Nat) : State :=
  if s.cfg.threshMode = .preamble then s.sqlTrigger t
  else ((s.sqlTrigger t).setThresh (thr s.cfg s.dmin s.dmax)).enterData t

/-- `SQL(s)` at time `t` (rules R125, R127): no output whether or not the sample triggers. -/
def execSql (x : Sample) (t : Nat) (s : State) : Host.Outcome State Fault Refusal :=
  s.whenSelected .sql fun s =>
    let s' := s.setWires { s.wires with x := x, p := pow s.cfg.sys x, trig := trig s.cfg x }
    if trig s.cfg x then s'.sqlTrigger t else s'

end Sys2Proof.Machine
end

