-- ==== Sys2Proof/Machine/Demodulator.lean ====
section
/-! DEFINITION. The Differential Demodulator (`spec/42_demodulator.md`): `DEMOD`. -/

namespace Sys2Proof.Machine

/-- `DEMOD(s, PREV) -> (dv, d)` (rule R135); `none` is `dv` false, when `d` is not defined (spec/93 row U14). The product
with the conjugate in place of the quotient is general knowledge K2 (PRESUMED, log entry 19). -/
def demod (N : NumSystem) (x prev : Sample) : Option NUM :=
  if dv N x prev then some (N.arg (crossRe N x prev) (crossIm N x prev)) else none

/-- `DEMOD`: combinational; reads `PREV` and writes no register, only the transients `re`, `im`, `(dv, d)`. -/
def execDemod (x : Sample) (s : State) : Host.Outcome State Fault Refusal :=
  s.whenSelected .demod fun s =>
    s.setWires { s.wires with
      x := x, re := crossRe s.cfg.sys x s.prev, im := crossIm s.cfg.sys x s.prev, disc := demod s.cfg.sys x s.prev }

end Sys2Proof.Machine
end

