-- ==== Sys2Proof/Machine/Scanner.lean ====
section
/-! DEFINITION. The Signal Scanner (`spec/40_scanner.md`): `SCAN` and the sample step `SMP`. -/

namespace Sys2Proof.Machine

/-- `SCAN` (rules R111, R112). -/
def execScan (x : Sample) (s : State) : Host.Outcome State Fault Refusal :=
  s.whenSelected .scan fun s => (s.scan x).setWires { s.wires with x := x }

/-- The step for one Sample, in the order of rule R113. `DEMOD` reads the OLD `PREV` (rules R13, R112, R284); in `HALT`
the sample is ignored (rule R228). -/
def State.sample (s : State) (x : Sample) : State :=
  let s0 := s.openStep
  let s1 := s0.scan x
  match s.phase with
  | .halt => s0
  | .search => if trig s.cfg x then s1.trigger s.now else s1
  | .sync =>
    if powerDropped s.cfg x then s1.raise (.framingFail .powerDrop) else s1.syncSample s.now (demod s.cfg.sys x s.prev)
  | .data =>
    if powerDropped s.cfg x then s1.raise (.framingFail .powerDrop) else s1.dataSample s.now (demod s.cfg.sys x s.prev)

/-- The step of a test-point line `D d` or `DX` (rule R100): `DEMOD` replaced by the given pair, `PREV` left unchanged,
the power check skipped; refused in `SEARCH` and in `HALT` (spec/93 row U18). -/
def State.injectSample (s : State) (disc : Option NUM) : Host.Outcome State Fault Refusal :=
  match s.phase with
  | .sync => .next (s.openStep.tick.syncSample s.now disc)
  | .data => .next (s.openStep.tick.dataSample s.now disc)
  | .search => .refused .testPointOutsideAttempt
  | .halt => .refused .testPointOutsideAttempt

/-- `SMP` (rule R110). -/
def execSmp (x : SmpOperand) (s : State) : Host.Outcome State Fault Refusal :=
  match x with
  | .wires x => .next (s.sample x)
  | .inject disc => s.injectSample disc

end Sys2Proof.Machine
end

