-- ==== Sys2Proof/Machine/Stimulus.lean ====
section
/-! DEFINITION. The stimulus notation of rule R100 and the macros of rule R101. Its decimal numbers and fractions are
those of the reference number system, the rationals. -/

namespace Sys2Proof.Machine

/-- `S i q`. -/
def lineSample (i q : NUM) : Line := .port 0b001 ⟨i, q⟩

/-- `IDLE`. -/
def lineIdle : Line := .port 0b000 .origin

/-- `CANCEL`. -/
def lineCancel : Line := .port 0b010 .origin

/-- `RST`. -/
def lineRst : Line := .port 0b100 .origin

/-- `D d`, a valid discriminator at the test point. -/
def lineDisc (d : NUM) : Line := .inject (some d)

/-- `DX`, an invalid discriminator at the test point. -/
def lineNoDisc : Line := .inject none

/-- `ZERO k`: `k` lines `S 0 0`. -/
def zeroLines (k : Nat) : List Line := List.replicate k (lineSample 0 0)

/-- The quadrant samples `Q0` to `Q3`. -/
def quadrant (n : Fin 4) : Sample :=
  match n with
  | 0 => ⟨1, 0⟩
  | 1 => ⟨0, 1⟩
  | 2 => ⟨-1, 0⟩
  | 3 => ⟨0, -1⟩

/-- The macros that continue from the sample before them. -/
inductive Turn where
  /-- `ROT+`: one quadrant counter-clockwise a sample -/
  | plus
  /-- `ROT-`: one quadrant clockwise a sample -/
  | minus
  /-- `HOLD`: repeats -/
  | hold
deriving DecidableEq, Repr

/-- The quadrant one sample further. -/
def Turn.next (m : Turn) (n : Fin 4) : Fin 4 :=
  match m with
  | .plus => n + 1
  | .minus => n + 3
  | .hold => n

/-- The quadrant indices of `k` samples of a macro after a sample of index `n`. -/
def Turn.quadrants (m : Turn) (n : Fin 4) : Nat → List (Fin 4)
  | 0 => []
  | k + 1 => m.next n :: quadrants m (m.next n) k

/-- The quadrant indices of `BITS(b, k, up, down)` after a sample of index `n`. -/
def bitsQuadrants (k : Nat) (up down : Turn) (n : Fin 4) : List Bool → List (Fin 4)
  | [] => []
  | b :: bs =>
    let run := (if b then up else down).quadrants n k
    run ++ bitsQuadrants k up down (run.getLastD n) bs

/-- A quadrant string as lines. -/
def quadrantLines (ns : List (Fin 4)) : List Line :=
  ns.map fun n => .port 0b001 (quadrant n)

/-- `BITS(b, k, D hi, D lo)` at the test point: `k` lines per bit. -/
def discLines (k : Nat) (hi lo : NUM) (bs : List Bool) : List Line :=
  bs.flatMap fun b => List.replicate k (lineDisc (if b then hi else lo))

end Sys2Proof.Machine
end

