-- ==== Sys2Proof/Machine/System.lean ====
section
/-! DEFINITION. The system operations (`spec/48_system.md`): `RST`, `CANCEL`, `IDLE`, `EOS`, `REPORT`, `DISCARD`, and
the start of the machine under a configuration (rules R35, R252, R282). -/

namespace Sys2Proof.Machine

/-- `RST` (rule R225): every register and frame byte at its `RESETVAL`, output `NONE`, in any phase. -/
def execRst (s : State) : Host.Outcome State Fault Refusal := .next s.openStep.discard

/-- `CANCEL` (rule R226): the attempt is discarded without output and the block halts; in `HALT` nothing. -/
def execCancel (s : State) : Host.Outcome State Fault Refusal :=
  .next (if s.phase = .halt then s.openStep else s.openStep.cancelled)

/-- `IDLE` (rule R227): every register keeps its value, `ET` included; output `NONE`. -/
def execIdle (s : State) : Host.Outcome State Fault Refusal := .next s.openStep

/-- `EOS` (rule R231): no output is produced and the state is whatever the last step left. -/
def execEos (s : State) : Host.Outcome State Fault Refusal := .next s

/-- `REPORT` (rule R229): drives the output port; the `DISCARD` that follows is an operation of its own (rule R160). -/
def execReport (id : Ident) (c : Choice) (nib : Nibble) (s : State) : Host.Outcome State Fault Refusal :=
  s.whenSelected .report fun s => s.drive (.report id c nib)

/-- `DISCARD` (rule R230): the attempt reset; it sets no output. By itself it resets in `SYNC` and `DATA` at any time, not
only at the end of an attempt (DESIGN CHOICE, log entry 27). -/
def execDiscard (s : State) : Host.Outcome State Fault Refusal := s.whenSelected .discard State.discard

/-- The machine before its first step under a configuration an environment offers (rule R282): the reset state, or the
refusal of a configuration the rules cannot run with (rules R35, R252). -/
def start (r : RawParams) : Host.Outcome State Fault Refusal :=
  match Config.check r with
  | .ok c => .next (.resetWith c)
  | .error e => .refused (.illegalConfiguration e)

end Sys2Proof.Machine
end

