-- ==== Sys2Proof/Machine/Dispatch.lean ====
section
/-! DEFINITION. One arm per row of spec/opcode_table.json. -/

namespace Sys2Proof.Machine

def exec (i : Instr) (s : State) : Host.Outcome State Fault Refusal :=
  match i with
  | .rst => Sys2Proof.Machine.execRst s
  | .cancel => Sys2Proof.Machine.execCancel s
  | .smp x => Sys2Proof.Machine.execSmp x s
  | .idle => Sys2Proof.Machine.execIdle s
  | .eos => Sys2Proof.Machine.execEos s
  | .scan x => Sys2Proof.Machine.execScan x s
  | .sql x t => Sys2Proof.Machine.execSql x t s
  | .demod x => Sys2Proof.Machine.execDemod x s
  | .syncacc disc => Sys2Proof.Machine.execSyncacc disc s
  | .thr lo hi => Sys2Proof.Machine.execThr lo hi s
  | .enterdata t => Sys2Proof.Machine.execEnterdata t s
  | .slice d => Sys2Proof.Machine.execSlice d s
  | .run t level => Sys2Proof.Machine.execRun t level s
  | .place k b => Sys2Proof.Machine.execPlace k b s
  | .chk => Sys2Proof.Machine.execChk s
  | .descr => Sys2Proof.Machine.execDescr s
  | .choice => Sys2Proof.Machine.execChoice s
  | .report id c nib => Sys2Proof.Machine.execReport id c nib s
  | .discard => Sys2Proof.Machine.execDiscard s
  | .nibA => Sys2Proof.Machine.execNibA s
  | .nibB => Sys2Proof.Machine.execNibB s
  | .nibC => Sys2Proof.Machine.execNibC s
  | .nibD => Sys2Proof.Machine.execNibD s
  | .nibE => Sys2Proof.Machine.execNibE s
  | .nibUnrecognized n => Sys2Proof.Machine.execNibUnrecognized n s
  | .frame addr in0 in1 in2 in3hi nib csum => Sys2Proof.Machine.execFrame addr in0 in1 in2 in3hi nib csum s
  | .outNone => Sys2Proof.Machine.execOutNone s
  | .outReport id c nib => Sys2Proof.Machine.execOutReport id c nib s
  | .outFramingFail cause => Sys2Proof.Machine.execOutFramingFail cause s
  | .outChecksumFail => Sys2Proof.Machine.execOutChecksumFail s
  | .perm in0 in1 in2 in3 => Sys2Proof.Machine.execPerm in0 in1 in2 in3 s

end Sys2Proof.Machine
end

