-- ==== Sys2Proof/Machine/Step.lean ====
section
/-! DEFINITION. One step of the machine: the next line of the stimulus is decoded and executed (rule R7: one step
consumes exactly one input event and drives exactly one output event). -/

namespace Sys2Proof.Machine

/-- What a step adds after `exec`: the transients cease (rule R39). -/
def closeOutcome : Host.Outcome State Fault Refusal → Host.Outcome State Fault Refusal
  | .next s => .next s.closeStep
  | .fault f => .fault f
  | .refused r => .refused r

/-- One step. When the stimulus is exhausted it is `EOS`: nothing is consumed, no output is driven (rule R231). A line
that decodes to no operation is refused by name. -/
def step (s : State) : Host.Outcome State Fault Refusal :=
  match s.stimulus with
  | [] => exec .eos s
  | ℓ :: rest =>
    match decode ℓ with
    | .ok i => closeOutcome (exec i (s.fetch rest).openStep)
    | .error e => .refused (.undecodable e)

/-- The state with a word of the opcode table presented as the next line of the stimulus, before the lines already
there. It stands for the environment presenting that word (log entry 1). A word of no format is presented as a
format-OUT word that decodes to nothing. -/
def State.withFetchWord (s : State) (nbits w : Nat) : State :=
  match lineOfBytes (bytesOfNumber nbits w) with
  | .ok ℓ => { s with stimulus := ℓ :: s.stimulus }
  | .error _ => { s with stimulus := .out (BitVec.allOnes 42) :: s.stimulus }

end Sys2Proof.Machine
end

