-- ==== Sys2Proof/Safety.lean ====
section
/-! DEFINITION. What a good state is (the invariants of rule R41) and what a run on a finite stimulus yields
(rule R231), in the terms the statements use. -/

namespace Sys2Proof.Machine

/-- The invariants of rule R41 that a state by itself can show, with the canonical form of the frame store and
rule R151's "phase `SYNC` exists only when `THRESH_MODE = PREAMBLE`". -/
structure GoodState (s : State) : Prop where
  /-- the frame store is in canonical form -/
  frame_wf : s.frame.wf = true
  /-- R41 (a) -/
  bitIdx_le : s.bitIdx.toNat ≤ 63
  /-- R41 (b): outside `DATA` the frame is empty -/
  frame_empty : s.phase ≠ .data → s.bitIdx = 0 ∧ ∀ a, s.frame.read a = 0
  /-- R41 (c): in `DATA` no bit beyond `BITIDX` is set -/
  bits_clear : s.phase = .data → ∀ k, s.bitIdx.toNat ≤ k → k < 64 → s.frame.bit k = false
  /-- R41 (c): in `DATA` `T_FLIP <= ET` -/
  tFlip_le : s.phase = .data → s.tFlip ≤ s.et
  /-- R41 (d): in `SYNC` `T_SYNC0 <= ET` -/
  tSync0_le : s.phase = .sync → s.tSync0 ≤ s.et
  /-- R41 (e): in `HALT` every register but `PHASE` holds its reset value -/
  halt_reset : s.phase = .halt → s = { s.discard with phase := .halt }
  /-- R41 (f): in `SEARCH` every register but `ET` and `PREV` holds its reset value -/
  search_reset : s.phase = .search → s = { s.discard with et := s.et, prev := s.prev }
  /-- R41 (g), what it says of the power of `PREV` -/
  prev_power : s.phase = .sync ∨ s.phase = .data → s.cfg.sys.lt 0 s.cfg.squelch = true →
    s.cfg.abortOnPowerDrop = true → s.cfg.sys.le s.cfg.squelch (pow s.cfg.sys s.prev) = true
  /-- rule R151: phase `SYNC` exists only in mode `PREAMBLE` -/
  sync_mode : s.phase = .sync → s.cfg.threshMode = .preamble

/-- A line of the stimulus notation of rule R100: the five wires, a test point, or the end. -/
def isEvent : Line → Bool
  | .port _ _ | .inject _ | .eos => true
  | .nib _ | .frame _ | .out _ | .perm _ => false

/-- The step that takes one given line. -/
def stepOn (ℓ : Line) (s : State) : Host.Outcome State Fault Refusal := step { s with stimulus := [ℓ] }

/-- A run on a finite list of lines (rule R231): the final state and the list of per-step output events; `none` if a
step stops. An `EOS` line is a line like the others, with the event `NONE` (DESIGN CHOICE, log entry 16: rule R100 has
one response a line, vector V-SYS-2 lists none for it). -/
def feed : List Line → State → Option (State × List OutEvent)
  | [], s => some (s, [])
  | ℓ :: rest, s =>
    match stepOn ℓ s with
    | .next s' => (feed rest s').map fun r => (r.1, s'.out :: r.2)
    | .fault _ => none
    | .refused _ => none

/-- The execution of operations one after the other, until one stops. -/
def execAll : List Instr → State → Host.Outcome State Fault Refusal
  | [], s => .next s
  | i :: is, s =>
    match exec i s with
    | .next s' => execAll is s'
    | .fault f => .fault f
    | .refused r => .refused r

/-- The placements of a run of `n` bits of value `b` from bit index `k` on (rule R158). -/
def placements (k n : Nat) (b : Bool) : List Instr := (List.range n).map fun j => .place (k + j) b

/-- The discriminator values `ds` of a stimulus of `k` samples a bit: each on the side of the threshold that its bit of
`bs` gives, above for true, at or below for false (rules R154, R163). -/
def OnSides (N : NumSystem) (thresh : NUM) (k : Nat) (bs : List Bool) (ds : List NUM) : Prop :=
  ds.length = k * bs.length ∧
  ∀ j, j < k * bs.length → N.lt thresh (ds.getD j 0) = bs.getD (j / k) false

/-- The eight bits of a byte in arrival order, bit 7 first (rule R62). -/
def bitsOfByte (b : Byte) : List Bool :=
  [b.getLsbD 7, b.getLsbD 6, b.getLsbD 5, b.getLsbD 4, b.getLsbD 3, b.getLsbD 2, b.getLsbD 1, b.getLsbD 0]

/-- Placement of a bit sequence at indices `k`, `k + 1`, ... (rule R183). -/
def placeAll (m : Memory) (k : Nat) : List Bool → Memory
  | [] => m
  | e :: es => placeAll (m.placeBit k e) (k + 1) es

/-- The registers and the frame of rule R20 (with the constants), the ports left out: what two states share that differ
at most in what their last step drove and what is still to come. -/
def State.registers (s : State) : State := { s with out := .none, wires := .idle, stimulus := [] }

end Sys2Proof.Machine
end

