-- ==== Sys2Proof/Certificates/Slice0/Obligations.lean ====
section
/-! DEFINITION. The statements for the provers. `OBLIGATIONS.json` names each with the rule or the section of spec/ it
comes from. An equation `exec i s = .next t` with `t` written out is completion, result and frame in one: every
field `t` does not name is unchanged. -/

open Sys2Proof Sys2Proof.Machine

/-! ### Reset, configuration, invariant -/

/-- R40, R280 (the spec's own choices D10, D22 and D24, log entry 12; the sentinels of `DMIN` and `DMAX` by general
knowledge K3, log entry 19): under every configuration the reset state has every register at its
reset value, every frame byte 0 and the output `NONE`; `RST` leaves the same values. -/
def Obligations.ResetHoldsResetValues : Prop :=
  ∀ (c : Params) (s : State),
    ∃ t, exec .rst s = .next t ∧
      ∀ u, u = State.resetWith c ∨ u = t →
        u.phase = .search ∧ u.et = 0 ∧ u.prev = ⟨0, 0⟩ ∧ u.tSync0 = 0 ∧ u.dmin = u.cfg.sentHi ∧ u.dmax = u.cfg.sentLo ∧
        u.thresh = 0 ∧ u.lvl = false ∧ u.tFlip = 0 ∧ u.bitIdx = 0 ∧ (∀ a, u.frame.read a = 0) ∧ u.out = .none

/-- The reset state meets the invariants of R41, under every configuration and in particular the reference one. -/
def Obligations.ResetStateIsGood : Prop :=
  GoodState State.reset ∧ ∀ c, GoodState (State.resetWith c)

/-- R41: every step keeps the invariants, from every state that has them, whatever line it takes. -/
def Obligations.StepKeepsGoodState : Prop :=
  ∀ s s' : State, GoodState s → step s = .next s' → GoodState s'

/-- Rules R35 and R73 (the spec's own choice D27): no step writes a configuration constant; rule R7: a step takes exactly
one line off the stimulus. -/
def Obligations.StepTakesOneLineAndKeepsConfiguration : Prop :=
  ∀ s s' : State, step s = .next s' → s'.cfg = s.cfg ∧ s'.stimulus = s.stimulus.tail

/-- Rules R10, R11, R35, R252 and rows U6, U9, U10, U12, U20: a configuration with an inexact `NUM` or an `ARG` without
its properties, with `TIME_STEP = 0`, `UNIT_INTERVAL = 0`, crossed sentinels or a frame not of 8 bytes is refused before
the first step; every other starts in its reset state with the constants as offered. -/
def Obligations.IllegalConfigurationIsRefused : Prop :=
  ∀ r : RawParams,
    ((r.num = .inexact ∨ r.num = .unlawfulArg) → ∃ e, start r = .refused (.illegalConfiguration e)) ∧
    ∀ n, r.num = .admitted n →
      if r.timeStep = 0 ∨ r.unitInterval = 0 ∨ n.system.lt r.sentHi r.sentLo = true ∨ r.frameBytes ≠ 8 then
        ∃ e, start r = .refused (.illegalConfiguration e)
      else
        ∃ c, start r = .next (State.resetWith c) ∧ c.num = n ∧ c.squelch = r.squelch ∧ c.sizeSync = r.sizeSync ∧
          c.timeStep = r.timeStep ∧ c.unitInterval = r.unitInterval ∧ c.threshMode = r.threshMode ∧
          c.threshFixed = r.threshFixed ∧ c.sentHi = r.sentHi ∧ c.sentLo = r.sentLo ∧
          c.abortOnPowerDrop = r.abortOnPowerDrop

/-! ### Encoding and the step -/

/-- Decode and encode agree: the line of a well-formed operation decodes to it, at every value of every operand. -/
def Obligations.DecodeOfEncodeIsIdentity : Prop :=
  ∀ (i : Instr) (ℓ : Line), i.WellFormed = true → encode i = some ℓ → decode ℓ = .ok i

/-- The other direction: in every format but IN, whose control words have don't-care bits, a word that decodes is the
encoding of what it decodes to; the operation a control word decodes to encodes to a word that decodes the same. For
format OUT this rests on the decoder refusing a word with an unused wire set or with choice code 5 or 6: log entry 24
(DESIGN CHOICE). -/
def Obligations.EncodeOfDecodeIsIdentity : Prop :=
  ∀ (ℓ : Line) (i : Instr), decode ℓ = .ok i →
    i.WellFormed = true ∧ ((∀ c x, ℓ ≠ .port c x) → encode i = some ℓ) ∧ ∃ ℓ', encode i = some ℓ' ∧ decode ℓ' = .ok i

/-- A step runs the decoded instruction: it takes the line off, begins with the output `NONE` and no transient (R13),
executes, and ends the transients (R39). At the end of the stimulus it executes `EOS`. -/
def Obligations.StepRunsDecodedInstruction : Prop :=
  (∀ (s : State) (ℓ : Line) (rest : List Line) (i : Instr), s.stimulus = ℓ :: rest → decode ℓ = .ok i →
    i.WellFormed = true →
    step s = match exec i { s with stimulus := rest, out := .none, wires := .idle } with
      | .next t => .next { t with wires := .idle }
      | .fault f => .fault f
      | .refused r => .refused r) ∧
  (∀ s : State, s.stimulus = [] → step s = exec .eos s)

/-- Words written out from the spec's encodings decode to their operations: the scenario's frame (R87), a report
(R85), a button code (R91), the identifier map's word (R89) and four control words (R83). -/
def Obligations.SpecWordsDecode : Prop :=
  decode (.port 0b100 ⟨0, 0⟩) = .ok .rst ∧ decode (.port 0b011 ⟨1, 0⟩) = .ok .cancel ∧
  decode (.port 0b001 ⟨1, 2⟩) = .ok (.smp (.wires ⟨1, 2⟩)) ∧ decode (.port 0b000 ⟨0, 0⟩) = .ok .idle ∧
  decode (.nib 0b1101) = .ok .nibC ∧
  decode (.frame 0x1122335D98F5E5CF) = .ok (.frame 0x112233 0x5D 0x98 0xF5 0xE 0x5 0xCF) ∧
  decode (.out 0b010101010111100110111101111100010010010101) =
    .ok (.outReport ⟨0xAB, 0xCD, 0xEF, 0x89⟩ .B 0x5) ∧
  decode (.perm 0x5D98F5E5) = .ok (.perm 0x5D 0x98 0xF5 0xE5)

/-- R83 and R254 (the spec's own choices D3 and D23): every control word decodes to exactly one event, `rst` over
`cancel` over `in_valid`; the data wires are read only by `SMP`. -/
def Obligations.ControlWordPriority : Prop :=
  ∀ (rst cancel inValid : Bool) (x : Sample),
    decode (.port (BitVec.ofBool rst ++ BitVec.ofBool cancel ++ BitVec.ofBool inValid) x) =
      .ok (if rst then .rst else if cancel then .cancel else if inValid then .smp (.wires x) else .idle)

/-- R95 and R96: the operation map and the phase codes of the opcode table select the same micro-operations. -/
def Obligations.OperationMapMatchesPhaseCodes : Prop :=
  ∀ (u : Uop) (p : PhaseCode), u ∈ decodeUop p ↔ p ∈ u.phaseCodes

/-- Log entry 7 (DEDUCED), read from R95 and R96: a micro-operation that the phase does not select changes nothing: its
row does not have the phase code, or it is `THR` or `ENTERDATA` in `SEARCH` under `THRESH_MODE = PREAMBLE`. (`PLACE`
past the frame is the framing failure in any phase, R181.) -/
def Obligations.UnselectedMicroOperationsChangeNothing : Prop :=
  ∀ (i : Instr) (u : Uop) (s : State), i.uop = some u → i.WellFormed = true →
    (s.phase.code ∉ u.phaseCodes ∨
      ((u = .thr ∨ u = .enterdata) ∧ s.phase = .search ∧ s.cfg.threshMode = .preamble)) →
    s.selects u = false ∧ exec i s = .next s

/-! ### System operations -/

/-- R225 (the spec's own choice D22; reset values of log entries 12 and 19): `RST` gives the reset state in any phase, with no output; the stimulus and the
constants are the environment's. -/
def Obligations.RstRestoresTheResetState : Prop :=
  ∀ s : State, exec .rst s = .next { State.resetWith s.cfg with stimulus := s.stimulus }

/-- R226 (the spec's own choice D21; reset values of log entries 12 and 19): `CANCEL` discards the attempt without output and halts; in `HALT` no register
changes. -/
def Obligations.CancelHalts : Prop :=
  ∀ s : State,
    (s.phase ≠ .halt →
      exec .cancel s = .next { State.resetWith s.cfg with phase := .halt, stimulus := s.stimulus }) ∧
    (s.phase = .halt → exec .cancel s = .next { s with out := .none, wires := .idle })

/-- R225, R228, R263: no operation but `RST` leaves `HALT`, and in `HALT` no other operation writes a register. -/
def Obligations.HaltIsLeftOnlyByReset : Prop :=
  ∀ (i : Instr) (s t : State), s.phase = .halt → exec i s = .next t → i ≠ .rst → t.registers = s.registers

/-- R227: `IDLE` keeps every register and outputs `NONE`; and removing all `IDLE` events from a stimulus leaves the
sequence of outputs that are not `NONE`, and the registers, as they were. -/
def Obligations.IdleEventsCanBeRemoved : Prop :=
  (∀ s : State, exec .idle s = .next { s with out := .none, wires := .idle }) ∧
  ∀ (ls : List Line) (s s' : State) (outs : List OutEvent), feed ls s = some (s', outs) →
    ∃ t outs', feed (ls.filter fun ℓ => decide (decode ℓ ≠ .ok .idle)) s = some (t, outs') ∧
      outs.filter (fun e => decide (e ≠ .none)) = outs'.filter (fun e => decide (e ≠ .none)) ∧
      t.registers = s'.registers

/-- R231 (the spec's own choice D15): `EOS` produces no output and changes nothing, so a run ends in the state its last
step left. -/
def Obligations.EndOfStimulusChangesNothing : Prop :=
  ∀ s : State, exec .eos s = .next s ∧ (s.stimulus = [] → step s = .next s)

/-- R229: `REPORT` in phase `DATA` drives the report on the output port; the identifier, the choice and the raw nibble
are the operands, `UNRECOGNIZED` among the choices. That `REPORT` by itself changes no register, and leaves to the
sequencer the `DISCARD` that R229 puts after it in the same step, is log entry 25 (DEDUCED); that it asks for no valid
`CHK` is log entry 26 (DESIGN CHOICE). -/
def Obligations.ReportDrivesTheOutput : Prop :=
  ∀ (id : Ident) (c : Choice) (nib : Nibble) (s : State), s.phase = .data →
    exec (.report id c nib) s = .next { s with out := .report id c nib }

/-- R230, with the reset values of R40 (the spec's own choices D10, D11 and D24, log entry 12; the sentinels by general
knowledge K3, log entry 19): `DISCARD` writes every register and frame byte its reset value, sets no output of its own, and leaves the
registers that `RST` leaves.
That by itself it resets at any time of an attempt is log entry 27 (DESIGN CHOICE). -/
def Obligations.DiscardIsTheAttemptReset : Prop :=
  ∀ s : State, s.phase = .sync ∨ s.phase = .data →
    ∃ t u, exec .discard s = .next t ∧ exec .rst s = .next u ∧ t.registers = u.registers ∧
      t = { s with phase := .search, et := 0, prev := ⟨0, 0⟩, tSync0 := 0, dmin := s.cfg.sentHi,
                   dmax := s.cfg.sentLo, thresh := 0, lvl := false, tFlip := 0, bitIdx := 0, frame := [] }

/-- R230, R256, R285: whatever a sample or test-point step outputs other than `NONE`, every register then holds its reset
value: nothing is saved, and the writes of `SCAN` and `RUN` are superseded. -/
def Obligations.OutcomeLeavesResetRegisters : Prop :=
  ∀ (x : SmpOperand) (s t : State), exec (.smp x) s = .next t → t.out ≠ .none →
    t.registers = (State.resetWith s.cfg).registers

/-! ### The sample step -/

/-- R113: the order of operations inside one `SMP` step when `PHASE` is not `HALT`. An interval to a time before `T_SYNC0`
or `T_FLIP`, in states no run reaches, is 0 by log entry 15 (DESIGN CHOICE). -/
def Obligations.SampleStepIsTheComposition : Prop :=
  ∀ (x : Sample) (s : State), s.phase ≠ .halt →
    let t := s.et + s.cfg.timeStep
    let N := s.cfg.sys
    let p := N.add (N.mul x.i x.i) (N.mul x.q x.q)
    let scanned : State := { s with et := t, prev := x, out := .none, wires := .idle }
    let drop : State := { State.resetWith s.cfg with out := .framingFail .powerDrop, stimulus := s.stimulus }
    exec (.smp (.wires x)) s = .next (match s.phase with
      | .halt => { s with out := .none, wires := .idle }
      | .search =>
        if N.le s.cfg.squelch p = true then
          if s.cfg.threshMode = .preamble then { scanned with tSync0 := t, phase := .sync }
          else { scanned with
            tSync0 := t, thresh := thr s.cfg s.dmin s.dmax, phase := .data, lvl := false, tFlip := t }
        else scanned
      | .sync =>
        if s.cfg.abortOnPowerDrop = true ∧ N.lt p s.cfg.squelch = true then drop
        else
          let r := syncacc N (demod N x s.prev) s.dmin s.dmax
          if s.cfg.sizeSync * s.cfg.unitInterval ≤ t - s.tSync0 then
            { scanned with
              dmin := r.1, dmax := r.2, thresh := thr s.cfg r.1 r.2, phase := .data, lvl := false, tFlip := t }
          else { scanned with dmin := r.1, dmax := r.2 }
      | .data =>
        if s.cfg.abortOnPowerDrop = true ∧ N.lt p s.cfg.squelch = true then drop
        else
          match demod N x s.prev with
          | none => scanned
          | some d =>
            if N.lt 0 (N.sub d s.thresh) = s.lvl then scanned else scanned.run t (N.lt 0 (N.sub d s.thresh)))

/-- R228 (the spec's own choice): in `HALT` a sample is consumed without effect; no register changes, the output is
`NONE`. -/
def Obligations.HaltIgnoresSamples : Prop :=
  ∀ (x : Sample) (s : State), s.phase = .halt →
    exec (.smp (.wires x)) s = .next { s with out := .none, wires := .idle }

/-- R100 (the spec's own choice D25) and row U18: a test-point line behaves as an `SMP` in `SYNC` and `DATA` with `DEMOD`
replaced, `PREV` left unchanged and the power check skipped; in `SEARCH` and `HALT` the stimulus is refused.
An interval to a time before `T_FLIP` or `T_SYNC0`, in states no run reaches, is 0 by log entry 15 (DESIGN CHOICE). -/
def Obligations.TestPointStep : Prop :=
  ∀ (disc : Option NUM) (s : State),
    let t := s.et + s.cfg.timeStep
    let ticked : State := { s with et := t, out := .none, wires := .idle }
    exec (.smp (.inject disc)) s = (match s.phase with
      | .search | .halt => .refused .testPointOutsideAttempt
      | .sync =>
        let r := syncacc s.cfg.sys disc s.dmin s.dmax
        if s.cfg.sizeSync * s.cfg.unitInterval ≤ t - s.tSync0 then
          .next { ticked with
            dmin := r.1, dmax := r.2, thresh := thr s.cfg r.1 r.2, phase := .data, lvl := false, tFlip := t }
        else .next { ticked with dmin := r.1, dmax := r.2 }
      | .data =>
        match disc with
        | none => .next ticked
        | some d =>
          if s.cfg.sys.lt 0 (s.cfg.sys.sub d s.thresh) = s.lvl then .next ticked
          else .next (ticked.run t (s.cfg.sys.lt 0 (s.cfg.sys.sub d s.thresh))))

/-- R96: the step of a sample in `SEARCH` is the execution, one after the other, of the micro-operations the map
selects: `SCAN`, `SQL`, and at the trigger in the modes without a preamble pass `THR` and `ENTERDATA`. -/
def Obligations.SearchStepRunsItsMicroOperations : Prop :=
  ∀ (x : Sample) (s : State), s.phase = .search →
    let t := s.et + s.cfg.timeStep
    ∃ s1 s2, exec (.scan x) { s with out := .none, wires := .idle } = .next s1 ∧ exec (.sql x t) s1 = .next s2 ∧
      if s.cfg.sys.le s.cfg.squelch (pow s.cfg.sys x) = true ∧ s.cfg.threshMode ≠ .preamble then
        ∃ s3 s4, exec (.thr s2.dmin s2.dmax) s2 = .next s3 ∧ exec (.enterdata t) s3 = .next s4 ∧
          exec (.smp (.wires x)) s = .next { s4 with wires := .idle }
      else exec (.smp (.wires x)) s = .next { s2 with wires := .idle }

/-- R96: the step of a sample in `SYNC` is the execution of `SCAN`, and on low power under `ABORT_ON_POWER_DROP` (the
spec's own choice D14) `DISCARD` with the failure; else of `DEMOD` (on the registers from before the step, R13), `SCAN`,
`SYNCACC`, and at the close of the window `THR` on the just-updated range and `ENTERDATA`.
An interval to a time before `T_SYNC0`, in states no run reaches, is 0 by log entry 15 (DESIGN CHOICE). -/
def Obligations.SyncStepRunsItsMicroOperations : Prop :=
  ∀ (x : Sample) (s : State), s.phase = .sync →
    let t := s.et + s.cfg.timeStep
    if s.cfg.abortOnPowerDrop = true ∧ s.cfg.sys.lt (pow s.cfg.sys x) s.cfg.squelch = true then
      ∃ s1 s2, exec (.scan x) { s with out := .none, wires := .idle } = .next s1 ∧ exec .discard s1 = .next s2 ∧
        exec (.smp (.wires x)) s = .next { s2 with out := .framingFail .powerDrop, wires := .idle }
    else
      ∃ s1 s2 s3, exec (.demod x) { s with out := .none, wires := .idle } = .next s1 ∧ exec (.scan x) s1 = .next s2 ∧
        exec (.syncacc s1.wires.disc) s2 = .next s3 ∧
        if s.cfg.sizeSync * s.cfg.unitInterval ≤ t - s.tSync0 then
          ∃ s4 s5, exec (.thr s3.dmin s3.dmax) s3 = .next s4 ∧ exec (.enterdata t) s4 = .next s5 ∧
            exec (.smp (.wires x)) s = .next { s5 with wires := .idle }
        else exec (.smp (.wires x)) s = .next { s3 with wires := .idle }

/-- R96: the step of a sample in `DATA` is the execution of `SCAN`, and on low power under `ABORT_ON_POWER_DROP` (the
spec's own choice D14) `DISCARD` with the failure; else of `DEMOD` (on the registers from before the step, R13), `SCAN`,
and for a valid value `SLICE`, and at a flip `RUN`. And `RUN` (R157 to R160, the spec's own choices
D16 and D17) is the execution of the other micro-operations of the row: past the frame, the failure and `DISCARD`;
below it, `n` times `PLACE` with the old level, then the bookkeeping; at exactly 64 bits, `n` times `PLACE`, `CHK`, and
if valid `DESCR`, `CHOICE`, `REPORT` of their results, else `CHECKSUM_FAIL`, and in either case `DISCARD`.
An interval to a time before `T_FLIP` is 0 by log entry 15 (DESIGN CHOICE); that `RUN` by itself runs also where `level` is `LVL`
is log entry 27 (DESIGN CHOICE); the transients it leaves are log entry 17 (DESIGN CHOICE). -/
def Obligations.DataStepRunsItsMicroOperations : Prop :=
  (∀ (x : Sample) (s : State), s.phase = .data →
    let t := s.et + s.cfg.timeStep
    if s.cfg.abortOnPowerDrop = true ∧ s.cfg.sys.lt (pow s.cfg.sys x) s.cfg.squelch = true then
      ∃ s1 s2, exec (.scan x) { s with out := .none, wires := .idle } = .next s1 ∧ exec .discard s1 = .next s2 ∧
        exec (.smp (.wires x)) s = .next { s2 with out := .framingFail .powerDrop, wires := .idle }
    else
      ∃ s1 s2, exec (.demod x) { s with out := .none, wires := .idle } = .next s1 ∧ exec (.scan x) s1 = .next s2 ∧
        match s1.wires.disc with
        | none => exec (.smp (.wires x)) s = .next { s2 with wires := .idle }
        | some d =>
          ∃ s3, exec (.slice d) s2 = .next s3 ∧
            if s3.wires.level = s.lvl then exec (.smp (.wires x)) s = .next { s3 with wires := .idle }
            else ∃ s4, exec (.run t s3.wires.level) s3 = .next s4 ∧
              exec (.smp (.wires x)) s = .next { s4 with wires := .idle }) ∧
  ∀ (t : Nat) (level : Bool) (s : State), s.phase = .data →
    let n := (t - s.tFlip) / s.cfg.unitInterval
    let k := s.bitIdx.toNat
    let w : Wires := { s.wires with level := level, n := n }
    if 64 < k + n then
      ∃ s1, exec .discard s = .next s1 ∧
        exec (.run t level) s = .next { s1 with out := .framingFail .overflow, wires := w }
    else
      ∃ s1, execAll (placements k n s.lvl) s = .next s1 ∧
        if k + n = 64 then
          ∃ s2, exec .chk s1 = .next s2 ∧
            if s2.wires.valid = true then
              ∃ s3 s4 s5 s6 c, exec .descr s2 = .next s3 ∧ exec .choice s3 = .next s4 ∧ s4.wires.choice = some c ∧
                exec (.report s4.wires.id c s4.wires.nib) s4 = .next s5 ∧ exec .discard s5 = .next s6 ∧
                exec (.run t level) s = .next { s6 with wires := w }
            else
              ∃ s3, exec .discard s2 = .next s3 ∧
                exec (.run t level) s = .next { s3 with out := .checksumFail, wires := w }
        else
          exec (.run t level) s =
            .next { s1 with bitIdx := BitVec.ofNat 7 (k + n), lvl := level, tFlip := t, wires := w }

/-- R111, R112: `SCAN` in any phase but `HALT` advances `ET` by `TIME_STEP` and records the sample in `PREV`; of the
transients only the current sample is set. -/
def Obligations.ScanAdvancesTimeAndRecordsSample : Prop :=
  ∀ (x : Sample) (s : State), s.phase ≠ .halt →
    exec (.scan x) s = .next { s with et := s.et + s.cfg.timeStep, prev := x, wires := { s.wires with x := x } }

/-- R111, R112, R264, R285: after a sample step outside `HALT`, either the step ended the attempt and `ET` and `PREV` are
reset, or `ET` has advanced by exactly `TIME_STEP` and `PREV` is the sample. -/
def Obligations.ElapsedTimeAndPreviousAfterSample : Prop :=
  ∀ (x : Sample) (s t : State), s.phase ≠ .halt → exec (.smp (.wires x)) s = .next t →
    (t.out = .none → t.et = s.et + s.cfg.timeStep ∧ t.prev = x) ∧ (t.out ≠ .none → t.et = 0 ∧ t.prev = ⟨0, 0⟩)

/-- R115: the phase and the output after each event, from every phase.
An interval to a time before `T_FLIP` or `T_SYNC0`, in states no run reaches, is 0 by log entry 15 (DESIGN CHOICE). -/
def Obligations.PhaseTransitionTable : Prop :=
  (∀ s t : State, exec .rst s = .next t → t.phase = .search ∧ t.out = .none) ∧
  (∀ s t : State, exec .cancel s = .next t → t.phase = .halt ∧ t.out = .none) ∧
  (∀ s t : State, exec .idle s = .next t → t.phase = s.phase ∧ t.out = .none) ∧
  (∀ (x : Sample) (s t : State), exec (.smp (.wires x)) s = .next t →
    match s.phase with
    | .halt => t.phase = .halt ∧ t.out = .none
    | .search =>
      t.out = .none ∧
        t.phase = if s.cfg.sys.le s.cfg.squelch (pow s.cfg.sys x) = true then (if s.cfg.threshMode = .preamble then .sync else .data) else .search
    | .sync =>
      if s.cfg.abortOnPowerDrop = true ∧ s.cfg.sys.lt (pow s.cfg.sys x) s.cfg.squelch = true then
        t.phase = .search ∧ t.out = .framingFail .powerDrop
      else
        t.out = .none ∧ t.phase =
          if s.cfg.sizeSync * s.cfg.unitInterval ≤ s.et + s.cfg.timeStep - s.tSync0 then .data else .sync
    | .data =>
      if s.cfg.abortOnPowerDrop = true ∧ s.cfg.sys.lt (pow s.cfg.sys x) s.cfg.squelch = true then
        t.phase = .search ∧ t.out = .framingFail .powerDrop
      else
        match demod s.cfg.sys x s.prev with
        | none => t.phase = .data ∧ t.out = .none
        | some d =>
          if s.cfg.sys.lt 0 (s.cfg.sys.sub d s.thresh) = s.lvl then t.phase = .data ∧ t.out = .none
          else
            let n := (s.et + s.cfg.timeStep - s.tFlip) / s.cfg.unitInterval
            let m := s.frame.placeRun s.bitIdx.toNat n s.lvl
            if 64 < s.bitIdx.toNat + n then t.phase = .search ∧ t.out = .framingFail .overflow
            else if s.bitIdx.toNat + n = 64 then
              t.phase = .search ∧
                t.out = if m.chk = true then .report m.descr (choiceOf m.nib) m.nib else .checksumFail
            else t.phase = .data ∧ t.out = .none)

/-- R155, R160 (D16), R229: a sample or test-point step reports only at a flip (a valid value whose level differs from
`LVL`) that makes the frame exactly full with a valid checksum, and what it reports is that frame's identifier, choice
and raw nibble.
An interval to a time before `T_FLIP` or `T_SYNC0`, in states no run reaches, is 0 by log entry 15 (DESIGN CHOICE). -/
def Obligations.ReportOnlyOfValidFullFrame : Prop :=
  ∀ (x : SmpOperand) (s t : State) (id : Ident) (c : Choice) (nib : Nibble),
    exec (.smp x) s = .next t → t.out = .report id c nib →
    s.phase = .data ∧
    (∃ d, (match x with | .wires x => demod s.cfg.sys x s.prev | .inject disc => disc) = some d ∧
      s.cfg.sys.lt 0 (s.cfg.sys.sub d s.thresh) ≠ s.lvl) ∧
    let n := (s.et + s.cfg.timeStep - s.tFlip) / s.cfg.unitInterval
    let m := s.frame.placeRun s.bitIdx.toNat n s.lvl
    s.bitIdx.toNat + n = 64 ∧ m.chk = true ∧ id = m.descr ∧ c = choiceOf m.nib ∧ nib = m.nib

/-! ### Burst Detector and Demodulator -/

/-- R125, R127 (the spec's own choices D9 and D28 on the trigger): `SQL` in `SEARCH` computes the power and the squelch
test; at the trigger it writes `T_SYNC0` and, in mode `PREAMBLE`, enters `SYNC`. That it writes nothing else in the other
modes, where `THR` and `ENTERDATA` follow as operations of their own, is log entry 9 (DEDUCED). No output. -/
def Obligations.SquelchOperation : Prop :=
  ∀ (x : Sample) (t : Nat) (s : State), s.phase = .search →
    let N := s.cfg.sys
    let p := N.add (N.mul x.i x.i) (N.mul x.q x.q)
    let w : Wires := { s.wires with x := x, p := p, trig := N.le s.cfg.squelch p }
    exec (.sql x t) s = .next (
      if N.le s.cfg.squelch p = true then
        if s.cfg.threshMode = .preamble then { s with tSync0 := t, phase := .sync, wires := w }
        else { s with tSync0 := t, wires := w }
      else { s with wires := w })

/-- R135: `DEMOD` in `SYNC` and `DATA` leaves the product with the conjugate of `PREV` and, where it is not zero, the
angle; no register changes. The product in place of the quotient is the spec's general knowledge K2 (log entry 19,
PRESUMED). -/
def Obligations.DemodulatorOperation : Prop :=
  ∀ (x : Sample) (s : State), s.phase = .sync ∨ s.phase = .data →
    let N := s.cfg.sys
    let re := N.add (N.mul x.i s.prev.i) (N.mul x.q s.prev.q)
    let im := N.sub (N.mul x.q s.prev.i) (N.mul x.i s.prev.q)
    exec (.demod x) s = .next { s with wires := { s.wires with
      x := x, re := re, im := im, disc := if re = 0 ∧ im = 0 then none else some (N.arg re im) } }

/-- R136 (the spec's own choice D12; the product of log entry 19): the discriminator is invalid exactly when the sample
or the previous sample is the origin, in every number system a configuration admits. -/
def Obligations.DiscriminatorInvalidIffZeroSample : Prop :=
  ∀ (c : Params) (x prev : Sample), demod c.sys x prev = none ↔ x = ⟨0, 0⟩ ∨ prev = ⟨0, 0⟩

/-- R141, from properties A3 and A4 of `ARG` (the product of log entry 19): the same sample gives 0, the opposite one
`PI`, a quarter turn counter-clockwise `HALF(PI)` and clockwise `-HALF(PI)`, in every number system a configuration
admits. -/
def Obligations.QuarterAndHalfTurns : Prop :=
  ∀ (c : Params) (prev : Sample), prev ≠ ⟨0, 0⟩ →
    let N := c.sys
    demod N prev prev = some 0 ∧ demod N ⟨N.neg prev.i, N.neg prev.q⟩ prev = some N.pi ∧
    demod N ⟨N.neg prev.q, prev.i⟩ prev = some (N.half N.pi) ∧
    demod N ⟨prev.q, N.neg prev.i⟩ prev = some (N.neg (N.half N.pi))

/-- R139, from property A5 (the product of log entry 19): amplitudes do not matter; and from A2 and A3: a valid value
lies in `(-PI, PI]` and is positive exactly for a turn counter-clockwise or an exact reversal; in every number system a
configuration admits. -/
def Obligations.DiscriminatorMeaning : Prop :=
  ∀ (c : Params) (k : NUM) (x prev : Sample), c.sys.lt 0 k = true →
    let N := c.sys
    demod N ⟨N.mul k x.i, N.mul k x.q⟩ prev = demod N x prev ∧
    demod N x ⟨N.mul k prev.i, N.mul k prev.q⟩ = demod N x prev ∧
    ∀ d, demod N x prev = some d → N.lt (N.neg N.pi) d = true ∧ N.le d N.pi = true ∧
      (N.lt 0 d = true ↔
        N.lt 0 (crossIm N x prev) = true ∨ (crossIm N x prev = 0 ∧ N.lt (crossRe N x prev) 0 = true))

/-! ### Bit Slicer -/

/-- R150: `SYNCACC` lowers `DMIN` and raises `DMAX` to take in a valid value and leaves both for an invalid one. -/
def Obligations.SyncaccAccumulates : Prop :=
  ∀ (disc : Option NUM) (s : State), s.phase = .sync →
    exec (.syncacc disc) s = .next (match disc with
      | some d => { s with dmin := s.cfg.sys.min s.dmin d, dmax := s.cfg.sys.max s.dmax d }
      | none => s)

/-- R152, R153 (the spec's own choices D8, D11 and D26): in `SYNC`, and in `SEARCH` in the modes without a preamble pass,
`THR` writes half the range, half the difference of the sentinels or the fixed threshold, by mode; and `ENTERDATA(t)`
enters `DATA` with level false and the flip time `t`. In mode `SENTINEL` the half of `SENT_LO - SENT_HI` rests on the
spec's general knowledge K3 (the minimum is initialised high, the maximum low; D10): log entry 19 (PRESUMED).
That each by itself asks for no trigger and no closed window is log entry 27 (DESIGN CHOICE). -/
def Obligations.ThresholdAndEntryToData : Prop :=
  ∀ (lo hi : NUM) (t : Nat) (s : State), s.phase = .sync ∨ (s.phase = .search ∧ s.cfg.threshMode ≠ .preamble) →
    exec (.thr lo hi) s = .next { s with thresh := match s.cfg.threshMode with
      | .preamble => s.cfg.sys.half (s.cfg.sys.sub hi lo)
      | .sentinel => s.cfg.sys.half (s.cfg.sys.sub s.cfg.sentLo s.cfg.sentHi)
      | .fixed => s.cfg.threshFixed } ∧
    exec (.enterdata t) s = .next { s with phase := .data, lvl := false, tFlip := t }

/-- R154: `SLICE` is a strict comparison; a value equal to the threshold gives level false. No register changes. -/
def Obligations.SliceIsStrict : Prop :=
  ∀ (d : NUM) (s : State), s.phase = .data →
    exec (.slice d) s = .next { s with wires := { s.wires with level := s.cfg.sys.lt 0 (s.cfg.sys.sub d s.thresh) } } ∧
    (d = s.thresh → exec (.slice d) s = .next { s with wires := { s.wires with level := false } })

/-- R156: the run length is the quotient of the time since the last flip by the unit interval, truncated: the greatest
number of whole unit intervals that fit.
That `RUN` by itself runs also where `level` is `LVL` is log entry 27, and that it leaves `n` as a transient is log entry
17 (DESIGN CHOICE both). -/
def Obligations.RunLengthIsTruncatedQuotient : Prop :=
  ∀ (t : Nat) (level : Bool) (s : State), s.phase = .data → s.tFlip ≤ t →
    ∃ u, exec (.run t level) s = .next u ∧ u.wires.n = (t - s.tFlip) / s.cfg.unitInterval ∧
      s.tFlip + u.wires.n * s.cfg.unitInterval ≤ t ∧ t < s.tFlip + (u.wires.n + 1) * s.cfg.unitInterval

/-- R157 to R160 (the spec's own choices D16 and D17): `RUN` by capacity. Past 64 bits it is the framing failure and no
bit is placed; at exactly 64 the frame with the run placed is checked and reported or not, and the attempt discarded;
below, the run is emitted at the OLD level and the bookkeeping done.
An interval to a time before `T_FLIP` is 0 by log entry 15 (DESIGN CHOICE); that `RUN` by itself runs also where `level` is `LVL`
is log entry 27 (DESIGN CHOICE); the transients it leaves are log entry 17 (DESIGN CHOICE). -/
def Obligations.RunByCapacity : Prop :=
  ∀ (t : Nat) (level : Bool) (s : State), s.phase = .data →
    let n := (t - s.tFlip) / s.cfg.unitInterval
    let w : Wires := { s.wires with level := level, n := n }
    let m := s.frame.placeRun s.bitIdx.toNat n s.lvl
    let ended : OutEvent → State := fun e =>
      { State.resetWith s.cfg with out := e, wires := w, stimulus := s.stimulus }
    exec (.run t level) s = .next (
      if 64 < s.bitIdx.toNat + n then ended (.framingFail .overflow)
      else if s.bitIdx.toNat + n = 64 then
        if ((m.read 3).toNat + (m.read 4).toNat + (m.read 5).toNat + (m.read 6).toNat) % 256 = (m.read 7).toNat then
          ended (.report (descramble (m.read 3) (m.read 4) (m.read 5) (m.read 6))
            (choiceOf ((m.read 6).extractLsb' 0 4)) ((m.read 6).extractLsb' 0 4))
        else ended .checksumFail
      else { s with
        frame := m, bitIdx := BitVec.ofNat 7 (s.bitIdx.toNat + n), lvl := level, tFlip := t, wires := w })

/-- R158, R67: a run that leaves the frame unfilled places `n` bits of the old level from `BITIDX` on: where the frame
was clear beyond `BITIDX` those bits are the old level, and every bit outside the run is as before.
An interval to a time before `T_FLIP` is 0 by log entry 15 (DESIGN CHOICE); that `RUN` by itself runs also where `level` is `LVL`
is log entry 27 (DESIGN CHOICE). -/
def Obligations.RunPlacesOldLevelOnly : Prop :=
  ∀ (t : Nat) (level : Bool) (s : State), s.phase = .data → s.frame.wf = true →
    (∀ j, s.bitIdx.toNat ≤ j → j < 64 → s.frame.bit j = false) →
    let n := (t - s.tFlip) / s.cfg.unitInterval
    let k := s.bitIdx.toNat
    k + n < 64 →
    ∃ u, exec (.run t level) s = .next u ∧ u.bitIdx.toNat = k + n ∧
      (∀ j, k ≤ j → j < k + n → u.frame.bit j = s.lvl) ∧
      (∀ j, j < k ∨ k + n ≤ j → u.frame.bit j = s.frame.bit j) ∧
      ∀ a, a < k / 8 ∨ k + n ≤ 8 * a → u.frame.read a = s.frame.read a

/-- R163: a discriminator sequence with exact transition times, `k >= 2` samples a bit, each value anywhere on the side of
the threshold that its bit gives, is recovered bit for bit: from entry to `DATA`, after the bits of `bs` and one value
`e` of the level opposite to the last, `BITIDX` counts them and each frame bit is its bit of `bs`, with no output on the
way. -/
def Obligations.RecoversBitsBetweenTransitions : Prop :=
  ∀ (s : State) (k : Nat) (ds : List NUM) (e : NUM) (bs : List Bool) (last : Bool),
    s.phase = .data → s.lvl = false → s.bitIdx = 0 → s.frame = [] → s.tFlip = s.et → 2 ≤ k →
    s.cfg.unitInterval = k * s.cfg.timeStep → OnSides s.cfg.sys s.thresh k bs ds → bs.getLast? = some last →
    s.cfg.sys.lt s.thresh e = !last → bs.length ≤ 63 →
    ∃ s' outs, feed (ds.map lineDisc ++ [lineDisc e]) s = some (s', outs) ∧
      (∀ o ∈ outs, o = .none) ∧ s'.phase = .data ∧ s'.bitIdx.toNat = bs.length ∧
      ∀ j, j < bs.length → s'.frame.bit j = bs.getD j false

/-- R163, R183, R160, R190, R200, R215: a whole frame of eight bytes, sent as discriminator values with exact transition
times, each anywhere on its side of the threshold, from entry to `DATA` and closed by one value of the opposite level, is
reported with its descrambled identifier, its choice and its raw nibble if its checksum is valid, and is `CHECKSUM_FAIL`
if not; no other output, and the registers are reset. -/
def Obligations.WholeFrameIsReportedOrRejected : Prop :=
  ∀ (s : State) (k : Nat) (ds : List NUM) (e : NUM) (b0 b1 b2 b3 b4 b5 b6 b7 : Byte),
    s.phase = .data → s.lvl = false → s.bitIdx = 0 → s.frame = [] → s.tFlip = s.et → 2 ≤ k →
    s.cfg.unitInterval = k * s.cfg.timeStep →
    OnSides s.cfg.sys s.thresh k ([b0, b1, b2, b3, b4, b5, b6, b7].flatMap bitsOfByte) ds →
    s.cfg.sys.lt s.thresh e = !b7.getLsbD 0 →
    ∃ s', feed (ds.map lineDisc ++ [lineDisc e]) s =
        some (s', List.replicate (64 * k) .none ++
          [if (b3.toNat + b4.toNat + b5.toNat + b6.toNat) % 256 = b7.toNat then
            .report (descramble b3 b4 b5 b6) (choiceOf (b6.extractLsb' 0 4)) (b6.extractLsb' 0 4)
          else .checksumFail]) ∧
      s'.registers = (State.resetWith s.cfg).registers

/-- R290 (a): with a threshold no discriminator value is at or below and the level already true, no sample ever flips:
the block stays in `DATA` and only time and the previous sample move. -/
def Obligations.SentinelThresholdNeverFlips : Prop :=
  ∀ (x : Sample) (s : State), s.phase = .data → s.cfg.abortOnPowerDrop = false → s.lvl = true →
    s.cfg.sys.le s.thresh (s.cfg.sys.neg s.cfg.sys.pi) = true →
    exec (.smp (.wires x)) s =
      .next { s with et := s.et + s.cfg.timeStep, prev := x, out := .none, wires := .idle }

/-! ### Packet Assembler -/

/-- R180: `PLACE(k, b)` inside the frame in `DATA` ORs a true bit into bit `7 - (k mod 8)` of byte `k div 8` and writes
nothing for a false bit; every other byte, and every register, `BITIDX` among them, is unchanged. -/
def Obligations.PlaceSetsOneBit : Prop :=
  ∀ (k : Nat) (b : Bool) (s : State), s.phase = .data → k < 64 → s.frame.wf = true →
    ∃ t, exec (.place k b) s = .next t ∧ t = { s with frame := t.frame } ∧
      t.frame.read (k / 8) =
        (if b then s.frame.read (k / 8) ||| ((1 : Byte) <<< (7 - k % 8)) else s.frame.read (k / 8)) ∧
      (∀ a, a ≠ k / 8 → t.frame.read a = s.frame.read a) ∧ (b = false → t = s)

/-- R181: placing bit index 63 succeeds; `PLACE` with an index of 64 or more signals the framing failure whatever the bit
is, and leaves the frame unchanged; and `RUN` raises the failure for a run past the frame before any bit is placed (the
frame it leaves is the empty one of the attempt reset). That `PLACE` by itself drives `OVERFLOW` in any phase and leaves
every register as it is, with no `DISCARD`, is log entry 10 (DEDUCED); that it changes nothing in a phase that does not
select it is log entry 7 (DEDUCED).
An interval to a time before `T_FLIP` is 0 by log entry 15 (DESIGN CHOICE); that `RUN` by itself runs also where `level` is `LVL`
is log entry 27 (DESIGN CHOICE). -/
def Obligations.PlaceBeyondFrameFails : Prop :=
  ∀ (k t : Nat) (b level : Bool) (s : State),
    (64 ≤ k → exec (.place k b) s = .next { s with out := .framingFail .overflow }) ∧
    (k ≤ 63 → ∃ u, exec (.place k b) s = .next u ∧ u.out = s.out) ∧
    (s.phase = .data → 64 < s.bitIdx.toNat + (t - s.tFlip) / s.cfg.unitInterval →
      ∃ u, exec (.run t level) s = .next u ∧ u.out = .framingFail .overflow ∧ u.frame = [])

/-- R183, R62: 64 emitted bits are packed most significant bit first, in bytes of increasing offset. -/
def Obligations.PackingLaw : Prop :=
  ∀ (e : List Bool), e.length = 64 → ∀ j, j < 8 →
    ((placeAll [] 0 e).read j).toNat =
      128 * (e.getD (8 * j) false).toNat + 64 * (e.getD (8 * j + 1) false).toNat +
      32 * (e.getD (8 * j + 2) false).toNat + 16 * (e.getD (8 * j + 3) false).toNat +
      8 * (e.getD (8 * j + 4) false).toNat + 4 * (e.getD (8 * j + 5) false).toNat +
      2 * (e.getD (8 * j + 6) false).toNat + (e.getD (8 * j + 7) false).toNat

/-- R66, R31: no operation but `RST`, `CANCEL`, `SMP`, `RUN`, `PLACE` and `DISCARD` changes a byte of the frame. -/
def Obligations.OtherOperationsKeepTheFrame : Prop :=
  ∀ (i : Instr) (s t : State), exec i s = .next t →
    i ≠ .rst → i ≠ .cancel → (∀ x, i ≠ .smp x) → (∀ u l, i ≠ .run u l) → (∀ k b, i ≠ .place k b) → i ≠ .discard →
    ∀ a, t.frame.read a = s.frame.read a

/-- R88, R87: the fields of a frame word; `nib` is the low nibble of `in3`, the address goes nowhere. That executing a
frame word by itself leaves them as transients and writes nothing in the frame store is log entry 11 (DESIGN CHOICE). -/
def Obligations.FrameFieldExtraction : Prop :=
  ∀ (addr : BitVec 24) (in0 in1 in2 : Byte) (hi nib : Nibble) (csum : Byte) (s : State),
    exec (.frame addr in0 in1 in2 hi nib csum) s = .next { s with wires := { s.wires with
      in0 := in0, in1 := in1, in2 := in2, in3 := hi ++ nib, nib := nib, csum := csum } } ∧
    nib.setWidth 8 = (hi ++ nib : Byte) &&& 0x0F

/-! ### Checksum Validator -/

/-- R190: `CHK` in `DATA` compares the sum of bytes 3 to 6 modulo 256 with byte 7; it raises nothing and changes no
register.
That the frame is read as it is, also before it is full, is log entry 26 (DESIGN CHOICE). -/
def Obligations.ChecksumOperation : Prop :=
  ∀ s : State, s.phase = .data →
    exec .chk s = .next { s with wires := { s.wires with
      valid := decide (((s.frame.read 3).toNat + (s.frame.read 4).toNat + (s.frame.read 5).toNat +
        (s.frame.read 6).toNat) % 256 = (s.frame.read 7).toNat) } }

/-- R191, R192: for every four bytes exactly one checksum byte is valid, their sum modulo 256; and from a valid frame
every single-bit error in bytes 3 to 7 is detected. -/
def Obligations.ChecksumDetectsSingleBitErrors : Prop :=
  ∀ b3 b4 b5 b6 b7 : Byte,
    (checksumValid b3 b4 b5 b6 b7 = true ↔ b7 = b3 + b4 + b5 + b6) ∧
    ∀ i, i < 8 → checksumValid b3 b4 b5 b6 b7 = true →
      let e : Byte := (1 : Byte) <<< i
      checksumValid (b3 ^^^ e) b4 b5 b6 b7 = false ∧ checksumValid b3 (b4 ^^^ e) b5 b6 b7 = false ∧
      checksumValid b3 b4 (b5 ^^^ e) b6 b7 = false ∧ checksumValid b3 b4 b5 (b6 ^^^ e) b7 = false ∧
      checksumValid b3 b4 b5 b6 (b7 ^^^ e) = false

/-- R61, R94 (b), row U5: the address bytes have no effect on any output of a completing run.
An interval to a time before `T_FLIP` is 0 by log entry 15 (DESIGN CHOICE); that `RUN` by itself runs also where `level` is `LVL`
is log entry 27 (DESIGN CHOICE). -/
def Obligations.AddressBytesHaveNoEffect : Prop :=
  ∀ (t : Nat) (level : Bool) (s : State) (m : Memory) (u u' : State), s.phase = .data → s.frame.wf = true →
    m.wf = true → (∀ a, 3 ≤ a → m.read a = s.frame.read a) →
    exec (.run t level) s = .next u → exec (.run t level) { s with frame := m } = .next u' → u'.out = u.out

/-! ### Identifier Decoder -/

/-- R200: `DESCR` in `DATA` leaves the four bytes of the formulas, from `FRAME[3..6]`; no register changes.
That the frame is read as it is, also before it is full and found valid, is log entry 26 (DESIGN CHOICE). -/
def Obligations.DescrambleOperation : Prop :=
  ∀ s : State, s.phase = .data →
    let in0 := s.frame.read 3
    let in1 := s.frame.read 4
    let in2 := s.frame.read 5
    let in3 := s.frame.read 6
    let out0 := (in0 >>> 3) ||| ((in0 &&& 0x04) <<< 5) ||| ((in1 &&& 0x01) <<< 6) ||| ((in2 &&& 0x01) <<< 5)
    let out1 := (in1 >>> 1) ||| ((in0 &&& 0x01) <<< 7) ||| (in2 >>> 7)
    let out2 := ((in2 &&& 0x7C) <<< 1) ||| (in3 >>> 5)
    exec .descr s = .next { s with wires := { s.wires with
      in0 := in0, in1 := in1, in2 := in2, in3 := in3, id := ⟨out0, out1, out2, out0 ^^^ out1 ^^^ out2⟩ } }

/-- R89, R201: the bit map of format PERM, written bit by bit, is the function the formulas of `DESCR` compute. That
executing a PERM word by itself leaves the identifier as a transient is log entry 11 (DESIGN CHOICE). -/
def Obligations.BitMapEqualsFormulas : Prop :=
  ∀ (in0 in1 in2 in3 : Byte) (s : State),
    exec (.perm in0 in1 in2 in3) s = .next { s with wires := { s.wires with
      in0 := in0, in1 := in1, in2 := in2, in3 := in3, id := descramble in0 in1 in2 in3 } }

/-- R204, R90: the fixture `SCR` is a right inverse of the decoder and keeps the button code, and it is a left inverse on
the inputs whose bits `in0[1]`, `in1[1]`, `in2[1]` and `in3[4]` are 0. -/
def Obligations.ScrambleInvertsDescramble : Prop :=
  (∀ (o0 o1 o2 : Byte) (nib : Nibble),
    let r := scramble o0 o1 o2 nib
    descramble r.1 r.2.1 r.2.2.1 r.2.2.2 = ⟨o0, o1, o2, o0 ^^^ o1 ^^^ o2⟩ ∧ r.2.2.2.extractLsb' 0 4 = nib) ∧
  ∀ in0 in1 in2 in3 : Byte, in0 &&& 0x02 = 0 → in1 &&& 0x02 = 0 → in2 &&& 0x02 = 0 → in3 &&& 0x10 = 0 →
    let id := descramble in0 in1 in2 in3
    scramble id.out0 id.out1 id.out2 (in3.extractLsb' 0 4) = (in0, in1, in2, in3)

/-! ### Choice Mapper -/

/-- R215, R218: `CHOICE` in `DATA` gives, for all sixteen codes of the low nibble of `FRAME[6]`, the choice of the full
table and the nibble; no register changes.
That the frame is read as it is, also before it is full and found valid, is log entry 26 (DESIGN CHOICE). -/
def Obligations.ChoiceTable : Prop :=
  ∀ s : State, s.phase = .data →
    let nib := (s.frame.read 6).extractLsb' 0 4
    exec .choice s = .next { s with wires := { s.wires with nib := nib, choice := some (match nib.toNat with
      | 0x0 => .unrecognized | 0x1 => .A | 0x2 => .unrecognized | 0x3 => .unrecognized
      | 0x4 => .unrecognized | 0x5 => .B | 0x6 => .unrecognized | 0x7 => .unrecognized
      | 0x8 => .unrecognized | 0x9 => .unrecognized | 0xA => .E | 0xB => .unrecognized
      | 0xC => .unrecognized | 0xD => .C | 0xE => .D | _ => .unrecognized) } }

/-- R91, R92: each button code of the table decodes to its row and gives its choice; each of the eleven other values
gives the sixth choice, `UNRECOGNIZED`, with the raw nibble. That executing a button code by itself leaves the pair as
transients is log entry 11 (DESIGN CHOICE). -/
def Obligations.ButtonCodeRows : Prop :=
  ∀ s : State,
    (∀ row ∈ [((0x1 : Nibble), Choice.A), (0x5, .B), (0xD, .C), (0xE, .D), (0xA, .E)],
      ∃ i, decode (.nib row.1) = .ok i ∧ i ∈ [Instr.nibA, .nibB, .nibC, .nibD, .nibE] ∧
        exec i s = .next { s with wires := { s.wires with nib := row.1, choice := some row.2 } }) ∧
    (∀ n ∈ [(0x0 : Nibble), 0x2, 0x3, 0x4, 0x6, 0x7, 0x8, 0x9, 0xB, 0xC, 0xF],
      decode (.nib n) = .ok (.nibUnrecognized n)) ∧
    exec .nibA s = .next { s with wires := { s.wires with nib := 0x1, choice := some .A } } ∧
    exec .nibB s = .next { s with wires := { s.wires with nib := 0x5, choice := some .B } } ∧
    exec .nibC s = .next { s with wires := { s.wires with nib := 0xD, choice := some .C } } ∧
    exec .nibD s = .next { s with wires := { s.wires with nib := 0xE, choice := some .D } } ∧
    exec .nibE s = .next { s with wires := { s.wires with nib := 0xA, choice := some .E } } ∧
    ∀ n, exec (.nibUnrecognized n) s =
      .next { s with wires := { s.wires with nib := n, choice := some .unrecognized } }

/-- R91, R92, R215: `CHOICE` in `DATA` is the execution of the button code its nibble decodes to (what executing a button
code by itself leaves is log entry 11, DESIGN CHOICE).
That the frame is read as it is, also before it is full and found valid, is log entry 26 (DESIGN CHOICE). -/
def Obligations.ChoiceRunsItsButtonCode : Prop :=
  ∀ s : State, s.phase = .data → exec .choice s = exec (decodeNib ((s.frame.read 6).extractLsb' 0 4)) s

/-- R217, R90: `CHOICE` does not look at the high nibble of `FRAME[6]` nor at any other byte, and `DESCR` does not look at
the button code, nor at the bits `in0[1]`, `in2[1]` and `in3[4]`.
That the frame is read as it is, also before it is full and found valid, is log entry 26 (DESIGN CHOICE). -/
def Obligations.ChoiceAndIdentifierAreIndependent : Prop :=
  ∀ (s s' t t' : State), s.phase = .data → s'.phase = .data →
    ((s.frame.read 6).extractLsb' 0 4 = (s'.frame.read 6).extractLsb' 0 4 →
      exec .choice s = .next t → exec .choice s' = .next t' →
      t.wires.choice = t'.wires.choice ∧ t.wires.nib = t'.wires.nib) ∧
    (s.frame.read 3 &&& 0xFD = s'.frame.read 3 &&& 0xFD → s.frame.read 4 = s'.frame.read 4 →
      s.frame.read 5 &&& 0xFD = s'.frame.read 5 &&& 0xFD → s.frame.read 6 &&& 0xE0 = s'.frame.read 6 &&& 0xE0 →
      exec .descr s = .next t → exec .descr s' = .next t' → t.wires.id = t'.wires.id)

/-! ### Output port -/

/-- R85, R86, R93 (the spec's own choices D19 and D20; that executing a row by itself drives the port is log entry 11,
DESIGN CHOICE): the four rows of format OUT drive their event and change no
register; and the wires of an output event tell the event: executing the row their word decodes to drives it. -/
def Obligations.OutputRowsDriveThePort : Prop :=
  ∀ (id : Ident) (c : Choice) (nib : Nibble) (cause : Cause) (s : State),
    exec .outNone s = .next { s with out := .none } ∧
    exec (.outReport id c nib) s = .next { s with out := .report id c nib } ∧
    exec (.outFramingFail cause) s = .next { s with out := .framingFail cause } ∧
    exec .outChecksumFail s = .next { s with out := .checksumFail } ∧
    ∀ e : OutEvent, ∃ i, decode (.out e.portWord) = .ok i ∧ exec i s = .next { s with out := e }
end

