-- ==== Sys2Proof/Laws/Memory.lean ====
section
/-! SUPPORT. The frame store: read after write, and that every operation keeps the canonical form. -/

namespace Sys2Proof.Machine

@[simp] theorem Memory.read_nil (a : Nat) : Memory.read [] a = 0 := rfl

theorem Memory.read_cons (b : Nat) (v : Byte) (m : Memory) (a : Nat) :
    Memory.read ((b, v) :: m) a = if a = b then v else m.read a := rfl

theorem Memory.wfFrom_cons (lo b : Nat) (v : Byte) (m : Memory) :
    Memory.wfFrom lo ((b, v) :: m) = true ↔ lo ≤ b ∧ b < 8 ∧ v ≠ 0 ∧ Memory.wfFrom (b + 1) m = true := by
  simp only [Memory.wfFrom, Bool.and_eq_true, decide_eq_true_eq, and_assoc]
  simp [Config.frameBytes, Memory.unlisted]

/-- A canonical form stays one from any lower offset. -/
theorem Memory.wfFrom_mono {lo lo' : Nat} (h : lo' ≤ lo) {m : Memory} (hm : m.wfFrom lo = true) :
    m.wfFrom lo' = true := by
  cases m with
  | nil => rfl
  | cons c m =>
    obtain ⟨b, v⟩ := c
    rw [Memory.wfFrom_cons] at hm ⊢
    exact ⟨h.trans hm.1, hm.2⟩

/-- Below its first offset a canonical form lists nothing. -/
theorem Memory.read_below {lo : Nat} {m : Memory} (hm : m.wfFrom lo = true) {a : Nat} (h : a < lo) : m.read a = 0 := by
  induction m generalizing lo with
  | nil => rfl
  | cons c m ih =>
    obtain ⟨b, v⟩ := c
    rw [Memory.wfFrom_cons] at hm
    rw [Memory.read_cons, if_neg (by omega)]
    exact ih hm.2.2.2 (by omega)

/-- There is nothing at offset 8 or above (rule R60). -/
theorem Memory.read_outside {lo : Nat} {m : Memory} (hm : m.wfFrom lo = true) {a : Nat} (h : 8 ≤ a) : m.read a = 0 := by
  induction m generalizing lo with
  | nil => rfl
  | cons c m ih =>
    obtain ⟨b, v⟩ := c
    rw [Memory.wfFrom_cons] at hm
    rw [Memory.read_cons, if_neg (by omega)]
    exact ih hm.2.2.2

theorem Memory.wfFrom_put {lo : Nat} {m : Memory} (hm : m.wfFrom lo = true) {a : Nat} (hlo : lo ≤ a) (ha : a < 8)
    (v : Byte) : (m.put a v).wfFrom lo = true := by
  induction m generalizing lo with
  | nil =>
    unfold Memory.put
    split
    · rfl
    · next h => rw [Memory.wfFrom_cons]; exact ⟨hlo, ha, h, rfl⟩
  | cons c m ih =>
    obtain ⟨b, w⟩ := c
    have hc := (Memory.wfFrom_cons lo b w m).mp hm
    unfold Memory.put
    split
    · split
      · exact hm
      · next hab h =>
        rw [Memory.wfFrom_cons]
        exact ⟨hlo, ha, h, (Memory.wfFrom_cons _ _ _ _).mpr ⟨hab, hc.2⟩⟩
    · split
      · next hab =>
        subst hab
        split
        · exact Memory.wfFrom_mono (by omega) hc.2.2.2
        · next h => rw [Memory.wfFrom_cons]; exact ⟨hc.1, hc.2.1, h, hc.2.2.2⟩
      · rw [Memory.wfFrom_cons]
        exact ⟨hc.1, hc.2.1, hc.2.2.1, ih hc.2.2.2 (by omega)⟩

/-- Reading after a write: the byte written at its offset, every other byte as before. -/
theorem Memory.read_put {lo : Nat} {m : Memory} (hm : m.wfFrom lo = true) (a : Nat) (v : Byte) (a' : Nat) :
    (m.put a v).read a' = if a' = a then v else m.read a' := by
  induction m generalizing lo with
  | nil =>
    unfold Memory.put
    split
    · next h => simp [h, Memory.unlisted]
    · rw [Memory.read_cons]
  | cons c m ih =>
    obtain ⟨b, w⟩ := c
    have hc := (Memory.wfFrom_cons lo b w m).mp hm
    unfold Memory.put
    split
    · next hab =>
      split
      · next h =>
        split
        · next haa =>
          subst haa
          rw [Memory.read_cons, if_neg (by omega), Memory.read_below hc.2.2.2 (by omega)]; exact h.symm
        · rfl
      · rw [Memory.read_cons]
    · split
      · next hab =>
        subst hab
        split
        · next h =>
          rw [Memory.read_cons]
          split
          · next haa => subst haa; rw [Memory.read_below hc.2.2.2 (by omega)]; exact h.symm
          · rfl
        · rw [Memory.read_cons, Memory.read_cons]
          split <;> simp_all
      · next hlt hne =>
        rw [Memory.read_cons, ih hc.2.2.2, Memory.read_cons]
        split
        · next haa => subst haa; rw [if_neg (by omega)]
        · rfl

/-- The checked write: below offset 8 it is `put`, above it is the fault of rule R60. -/
theorem Memory.store_eq (m : Memory) (a : Nat) (v : Byte) :
    m.store a v = if a < 8 then .ok (m.put a v) else .error (.noSuchCell a) := rfl

theorem Memory.wf_put {m : Memory} (hm : m.wf = true) {a : Nat} (ha : a < 8) (v : Byte) : (m.put a v).wf = true :=
  Memory.wfFrom_put hm (Nat.zero_le a) ha v

theorem Memory.wf_store {m m' : Memory} (hm : m.wf = true) {a : Nat} {v : Byte} (h : m.store a v = .ok m') :
    m'.wf = true := by
  rw [Memory.store_eq] at h
  split at h
  · next ha => cases h; exact Memory.wf_put hm ha v
  · cases h

theorem Memory.wf_placeBit {m : Memory} (hm : m.wf = true) {k : Nat} (hk : k < 64) (b : Bool) :
    (m.placeBit k b).wf = true := by
  unfold Memory.placeBit
  split
  · exact Memory.wf_put hm (by omega) _
  · exact hm

theorem Memory.wf_placeRun {m : Memory} (hm : m.wf = true) {k n : Nat} (h : k + n ≤ 64) (b : Bool) :
    (m.placeRun k n b).wf = true := by
  induction n generalizing m k with
  | zero => exact hm
  | succ n ih => exact ih (Memory.wf_placeBit hm (by omega) b) (by omega)

/-- `bitMask k` has exactly bit `7 - (k mod 8)`. -/
theorem bitMask_getLsbD (k i : Nat) : (bitMask k).getLsbD i = decide (i = 7 - k % 8) := by
  have h : k % 8 < 8 := Nat.mod_lt _ (by decide)
  unfold bitMask
  generalize k % 8 = r at h
  by_cases hi : i < 8
  · interval_cases r <;> interval_cases i <;> rfl
  · rw [BitVec.getLsbD_of_ge _ _ (by omega)]
    simp; omega

/-- `PLACE` on one bit index: that bit becomes its old value or the placed one, every other bit is as before. -/
theorem Memory.bit_placeBit {m : Memory} (hm : m.wf = true) (k : Nat) (b : Bool) (j : Nat) :
    (m.placeBit k b).bit j = if j = k then m.bit j || b else m.bit j := by
  unfold Memory.placeBit
  cases b with
  | false => simp
  | true =>
    simp only [if_true, Memory.bit, Memory.read_put hm]
    by_cases hjk : j / 8 = k / 8
    · rw [if_pos hjk, BitVec.getLsbD_or, bitMask_getLsbD, hjk]
      by_cases h : j = k
      · simp [h]
      · rw [if_neg h]
        have : 7 - j % 8 ≠ 7 - k % 8 := by omega
        simp [this]
    · rw [if_neg hjk, if_neg (by rintro rfl; exact hjk rfl)]

/-- A run of placements: the bits of the run become their old values or the placed one, every other bit is as before. -/
theorem Memory.bit_placeRun {m : Memory} (hm : m.wf = true) {k n : Nat} (h : k + n ≤ 64) (b : Bool) (j : Nat) :
    (m.placeRun k n b).bit j = if k ≤ j ∧ j < k + n then m.bit j || b else m.bit j := by
  induction n generalizing m k with
  | zero => simp only [Memory.placeRun]; rw [if_neg (by omega)]
  | succ n ih =>
    simp only [Memory.placeRun]
    rw [ih (Memory.wf_placeBit hm (by omega) b) (by omega), Memory.bit_placeBit hm]
    by_cases hj : j = k
    · subst hj
      rw [if_neg (by omega), if_pos rfl, if_pos (by omega)]
    · rw [if_neg hj]
      by_cases hr : k + 1 ≤ j ∧ j < k + 1 + n
      · rw [if_pos hr, if_pos (by omega)]
      · rw [if_neg hr, if_neg (by omega)]

/-- A byte whose bits no placement touched reads as before. -/
theorem Memory.read_placeBit_of_ne {m : Memory} (hm : m.wf = true) {k a : Nat} (h : a ≠ k / 8) (b : Bool) :
    (m.placeBit k b).read a = m.read a := by
  unfold Memory.placeBit
  split
  · rw [Memory.read_put hm, if_neg h]
  · rfl

end Sys2Proof.Machine
end

