-- ==== Sys2Proof/Laws/Num.lean ====
section
/-! SUPPORT. What the derived operations of an exact number system do, in the ordered field its numbers stand for; and
the reference number system's operations as Lean's own on the rationals. -/

namespace Sys2Proof

/-- The number system of a configuration is one that rule R10 admits. -/
theorem Params.sys_admitted (c : Params) : c.sys.Admitted := c.num.admitted

namespace NumSystem.ExactIn

variable {N : NumSystem} {K : Type} [Field K] [LinearOrder K] [IsStrictOrderedRing K] {val : NUM → K}

theorem lt_iff (h : N.ExactIn K val) (a b : NUM) : N.lt a b = true ↔ val a < val b := by
  rw [← not_le, ← h.le_iff]
  simp [NumSystem.lt]

theorem eq_iff (h : N.ExactIn K val) (a b : NUM) : a = b ↔ val a = val b := ⟨congrArg val, h.inj a b⟩

theorem val_neg (h : N.ExactIn K val) (a : NUM) : val (N.neg a) = -val a := by
  rw [NumSystem.neg, h.val_sub, h.val_zero, zero_sub]

theorem val_min (h : N.ExactIn K val) (a b : NUM) : val (N.min a b) = Min.min (val a) (val b) := by
  unfold NumSystem.min
  split
  · next hab => rw [min_eq_left ((h.le_iff a b).mp hab)]
  · next hab => rw [min_eq_right (le_of_not_ge fun hc => hab ((h.le_iff a b).mpr hc))]

theorem val_max (h : N.ExactIn K val) (a b : NUM) : val (N.max a b) = Max.max (val a) (val b) := by
  unfold NumSystem.max
  split
  · next hab => rw [max_eq_right ((h.le_iff a b).mp hab)]
  · next hab => rw [max_eq_left (le_of_not_ge fun hc => hab ((h.le_iff a b).mpr hc))]

theorem val_pow (h : N.ExactIn K val) (x : Sample) :
    val (Machine.pow N x) = val x.i * val x.i + val x.q * val x.q := by
  rw [Machine.pow, h.val_add, h.val_mul, h.val_mul]

theorem val_crossRe (h : N.ExactIn K val) (x prev : Sample) :
    val (Machine.crossRe N x prev) = val x.i * val prev.i + val x.q * val prev.q := by
  rw [Machine.crossRe, h.val_add, h.val_mul, h.val_mul]

theorem val_crossIm (h : N.ExactIn K val) (x prev : Sample) :
    val (Machine.crossIm N x prev) = val x.q * val prev.i - val x.i * val prev.q := by
  rw [Machine.crossIm, h.val_sub, h.val_mul, h.val_mul]

/-- The level of a value is the side of the threshold it lies on (rule R154). -/
theorem sliceLevel_eq (h : N.ExactIn K val) (d thresh : NUM) : Machine.sliceLevel N d thresh = N.lt thresh d := by
  rw [Bool.eq_iff_iff, Machine.sliceLevel, h.lt_iff, h.lt_iff, h.val_zero, h.val_sub, sub_pos]

end NumSystem.ExactIn

/-! ### The reference number system -/

variable (pi : NUM) (arg : NUM → NUM → NUM) (a b : NUM)

@[simp] theorem NumSystem.rationals_add : (NumSystem.rationals pi arg).add a b = a + b := rfl
@[simp] theorem NumSystem.rationals_sub : (NumSystem.rationals pi arg).sub a b = a - b := rfl
@[simp] theorem NumSystem.rationals_mul : (NumSystem.rationals pi arg).mul a b = a * b := rfl
@[simp] theorem NumSystem.rationals_half : (NumSystem.rationals pi arg).half a = a / 2 := rfl
@[simp] theorem NumSystem.rationals_le : (NumSystem.rationals pi arg).le a b = decide (a ≤ b) := rfl
@[simp] theorem NumSystem.rationals_pi : (NumSystem.rationals pi arg).pi = pi := rfl
@[simp] theorem NumSystem.rationals_arg : (NumSystem.rationals pi arg).arg a b = arg a b := rfl

@[simp] theorem NumSystem.rationals_lt : (NumSystem.rationals pi arg).lt a b = decide (a < b) := by
  rw [Bool.eq_iff_iff, (NumSystem.rationals_exactIn pi arg).lt_iff, decide_eq_true_iff]

end Sys2Proof
end

