-- ==== Sys2Proof/Laws/State.lean ====
section
/-! SUPPORT. What each named update of the state leaves in each field. Every lemma is true by definition. -/

namespace Sys2Proof.Machine.State

variable (s : State)

/-! ### `fetch` -/

@[simp] theorem fetch_phase (rest : List Line) : (s.fetch rest).phase = s.phase := rfl
@[simp] theorem fetch_et (rest : List Line) : (s.fetch rest).et = s.et := rfl
@[simp] theorem fetch_prev (rest : List Line) : (s.fetch rest).prev = s.prev := rfl
@[simp] theorem fetch_tSync0 (rest : List Line) : (s.fetch rest).tSync0 = s.tSync0 := rfl
@[simp] theorem fetch_dmin (rest : List Line) : (s.fetch rest).dmin = s.dmin := rfl
@[simp] theorem fetch_dmax (rest : List Line) : (s.fetch rest).dmax = s.dmax := rfl
@[simp] theorem fetch_thresh (rest : List Line) : (s.fetch rest).thresh = s.thresh := rfl
@[simp] theorem fetch_lvl (rest : List Line) : (s.fetch rest).lvl = s.lvl := rfl
@[simp] theorem fetch_tFlip (rest : List Line) : (s.fetch rest).tFlip = s.tFlip := rfl
@[simp] theorem fetch_bitIdx (rest : List Line) : (s.fetch rest).bitIdx = s.bitIdx := rfl
@[simp] theorem fetch_frame (rest : List Line) : (s.fetch rest).frame = s.frame := rfl
@[simp] theorem fetch_out (rest : List Line) : (s.fetch rest).out = s.out := rfl
@[simp] theorem fetch_wires (rest : List Line) : (s.fetch rest).wires = s.wires := rfl
@[simp] theorem fetch_stimulus (rest : List Line) : (s.fetch rest).stimulus = rest := rfl
@[simp] theorem fetch_cfg (rest : List Line) : (s.fetch rest).cfg = s.cfg := rfl
@[simp] theorem fetch_now (rest : List Line) : (s.fetch rest).now = s.now := rfl

/-! ### `openStep` -/

@[simp] theorem openStep_phase : (s.openStep).phase = s.phase := rfl
@[simp] theorem openStep_et : (s.openStep).et = s.et := rfl
@[simp] theorem openStep_prev : (s.openStep).prev = s.prev := rfl
@[simp] theorem openStep_tSync0 : (s.openStep).tSync0 = s.tSync0 := rfl
@[simp] theorem openStep_dmin : (s.openStep).dmin = s.dmin := rfl
@[simp] theorem openStep_dmax : (s.openStep).dmax = s.dmax := rfl
@[simp] theorem openStep_thresh : (s.openStep).thresh = s.thresh := rfl
@[simp] theorem openStep_lvl : (s.openStep).lvl = s.lvl := rfl
@[simp] theorem openStep_tFlip : (s.openStep).tFlip = s.tFlip := rfl
@[simp] theorem openStep_bitIdx : (s.openStep).bitIdx = s.bitIdx := rfl
@[simp] theorem openStep_frame : (s.openStep).frame = s.frame := rfl
@[simp] theorem openStep_out : (s.openStep).out = .none := rfl
@[simp] theorem openStep_wires : (s.openStep).wires = .idle := rfl
@[simp] theorem openStep_stimulus : (s.openStep).stimulus = s.stimulus := rfl
@[simp] theorem openStep_cfg : (s.openStep).cfg = s.cfg := rfl
@[simp] theorem openStep_now : (s.openStep).now = s.now := rfl

/-! ### `closeStep` -/

@[simp] theorem closeStep_phase : (s.closeStep).phase = s.phase := rfl
@[simp] theorem closeStep_et : (s.closeStep).et = s.et := rfl
@[simp] theorem closeStep_prev : (s.closeStep).prev = s.prev := rfl
@[simp] theorem closeStep_tSync0 : (s.closeStep).tSync0 = s.tSync0 := rfl
@[simp] theorem closeStep_dmin : (s.closeStep).dmin = s.dmin := rfl
@[simp] theorem closeStep_dmax : (s.closeStep).dmax = s.dmax := rfl
@[simp] theorem closeStep_thresh : (s.closeStep).thresh = s.thresh := rfl
@[simp] theorem closeStep_lvl : (s.closeStep).lvl = s.lvl := rfl
@[simp] theorem closeStep_tFlip : (s.closeStep).tFlip = s.tFlip := rfl
@[simp] theorem closeStep_bitIdx : (s.closeStep).bitIdx = s.bitIdx := rfl
@[simp] theorem closeStep_frame : (s.closeStep).frame = s.frame := rfl
@[simp] theorem closeStep_out : (s.closeStep).out = s.out := rfl
@[simp] theorem closeStep_wires : (s.closeStep).wires = .idle := rfl
@[simp] theorem closeStep_stimulus : (s.closeStep).stimulus = s.stimulus := rfl
@[simp] theorem closeStep_cfg : (s.closeStep).cfg = s.cfg := rfl
@[simp] theorem closeStep_now : (s.closeStep).now = s.now := rfl

/-! ### `drive` -/

@[simp] theorem drive_phase (e : OutEvent) : (s.drive e).phase = s.phase := rfl
@[simp] theorem drive_et (e : OutEvent) : (s.drive e).et = s.et := rfl
@[simp] theorem drive_prev (e : OutEvent) : (s.drive e).prev = s.prev := rfl
@[simp] theorem drive_tSync0 (e : OutEvent) : (s.drive e).tSync0 = s.tSync0 := rfl
@[simp] theorem drive_dmin (e : OutEvent) : (s.drive e).dmin = s.dmin := rfl
@[simp] theorem drive_dmax (e : OutEvent) : (s.drive e).dmax = s.dmax := rfl
@[simp] theorem drive_thresh (e : OutEvent) : (s.drive e).thresh = s.thresh := rfl
@[simp] theorem drive_lvl (e : OutEvent) : (s.drive e).lvl = s.lvl := rfl
@[simp] theorem drive_tFlip (e : OutEvent) : (s.drive e).tFlip = s.tFlip := rfl
@[simp] theorem drive_bitIdx (e : OutEvent) : (s.drive e).bitIdx = s.bitIdx := rfl
@[simp] theorem drive_frame (e : OutEvent) : (s.drive e).frame = s.frame := rfl
@[simp] theorem drive_out (e : OutEvent) : (s.drive e).out = e := rfl
@[simp] theorem drive_wires (e : OutEvent) : (s.drive e).wires = s.wires := rfl
@[simp] theorem drive_stimulus (e : OutEvent) : (s.drive e).stimulus = s.stimulus := rfl
@[simp] theorem drive_cfg (e : OutEvent) : (s.drive e).cfg = s.cfg := rfl
@[simp] theorem drive_now (e : OutEvent) : (s.drive e).now = s.now := rfl

/-! ### `setWires` -/

@[simp] theorem setWires_phase (w : Wires) : (s.setWires w).phase = s.phase := rfl
@[simp] theorem setWires_et (w : Wires) : (s.setWires w).et = s.et := rfl
@[simp] theorem setWires_prev (w : Wires) : (s.setWires w).prev = s.prev := rfl
@[simp] theorem setWires_tSync0 (w : Wires) : (s.setWires w).tSync0 = s.tSync0 := rfl
@[simp] theorem setWires_dmin (w : Wires) : (s.setWires w).dmin = s.dmin := rfl
@[simp] theorem setWires_dmax (w : Wires) : (s.setWires w).dmax = s.dmax := rfl
@[simp] theorem setWires_thresh (w : Wires) : (s.setWires w).thresh = s.thresh := rfl
@[simp] theorem setWires_lvl (w : Wires) : (s.setWires w).lvl = s.lvl := rfl
@[simp] theorem setWires_tFlip (w : Wires) : (s.setWires w).tFlip = s.tFlip := rfl
@[simp] theorem setWires_bitIdx (w : Wires) : (s.setWires w).bitIdx = s.bitIdx := rfl
@[simp] theorem setWires_frame (w : Wires) : (s.setWires w).frame = s.frame := rfl
@[simp] theorem setWires_out (w : Wires) : (s.setWires w).out = s.out := rfl
@[simp] theorem setWires_wires (w : Wires) : (s.setWires w).wires = w := rfl
@[simp] theorem setWires_stimulus (w : Wires) : (s.setWires w).stimulus = s.stimulus := rfl
@[simp] theorem setWires_cfg (w : Wires) : (s.setWires w).cfg = s.cfg := rfl
@[simp] theorem setWires_now (w : Wires) : (s.setWires w).now = s.now := rfl

/-! ### `tick` -/

@[simp] theorem tick_phase : (s.tick).phase = s.phase := rfl
@[simp] theorem tick_et : (s.tick).et = s.now := rfl
@[simp] theorem tick_prev : (s.tick).prev = s.prev := rfl
@[simp] theorem tick_tSync0 : (s.tick).tSync0 = s.tSync0 := rfl
@[simp] theorem tick_dmin : (s.tick).dmin = s.dmin := rfl
@[simp] theorem tick_dmax : (s.tick).dmax = s.dmax := rfl
@[simp] theorem tick_thresh : (s.tick).thresh = s.thresh := rfl
@[simp] theorem tick_lvl : (s.tick).lvl = s.lvl := rfl
@[simp] theorem tick_tFlip : (s.tick).tFlip = s.tFlip := rfl
@[simp] theorem tick_bitIdx : (s.tick).bitIdx = s.bitIdx := rfl
@[simp] theorem tick_frame : (s.tick).frame = s.frame := rfl
@[simp] theorem tick_out : (s.tick).out = s.out := rfl
@[simp] theorem tick_wires : (s.tick).wires = s.wires := rfl
@[simp] theorem tick_stimulus : (s.tick).stimulus = s.stimulus := rfl
@[simp] theorem tick_cfg : (s.tick).cfg = s.cfg := rfl

/-! ### `scan` -/

@[simp] theorem scan_phase (x : Sample) : (s.scan x).phase = s.phase := rfl
@[simp] theorem scan_et (x : Sample) : (s.scan x).et = s.now := rfl
@[simp] theorem scan_prev (x : Sample) : (s.scan x).prev = x := rfl
@[simp] theorem scan_tSync0 (x : Sample) : (s.scan x).tSync0 = s.tSync0 := rfl
@[simp] theorem scan_dmin (x : Sample) : (s.scan x).dmin = s.dmin := rfl
@[simp] theorem scan_dmax (x : Sample) : (s.scan x).dmax = s.dmax := rfl
@[simp] theorem scan_thresh (x : Sample) : (s.scan x).thresh = s.thresh := rfl
@[simp] theorem scan_lvl (x : Sample) : (s.scan x).lvl = s.lvl := rfl
@[simp] theorem scan_tFlip (x : Sample) : (s.scan x).tFlip = s.tFlip := rfl
@[simp] theorem scan_bitIdx (x : Sample) : (s.scan x).bitIdx = s.bitIdx := rfl
@[simp] theorem scan_frame (x : Sample) : (s.scan x).frame = s.frame := rfl
@[simp] theorem scan_out (x : Sample) : (s.scan x).out = s.out := rfl
@[simp] theorem scan_wires (x : Sample) : (s.scan x).wires = s.wires := rfl
@[simp] theorem scan_stimulus (x : Sample) : (s.scan x).stimulus = s.stimulus := rfl
@[simp] theorem scan_cfg (x : Sample) : (s.scan x).cfg = s.cfg := rfl

/-! ### `discard` -/

@[simp] theorem discard_phase : (s.discard).phase = .search := rfl
@[simp] theorem discard_et : (s.discard).et = 0 := rfl
@[simp] theorem discard_prev : (s.discard).prev = .origin := rfl
@[simp] theorem discard_tSync0 : (s.discard).tSync0 = 0 := rfl
@[simp] theorem discard_dmin : (s.discard).dmin = s.cfg.sentHi := rfl
@[simp] theorem discard_dmax : (s.discard).dmax = s.cfg.sentLo := rfl
@[simp] theorem discard_thresh : (s.discard).thresh = 0 := rfl
@[simp] theorem discard_lvl : (s.discard).lvl = false := rfl
@[simp] theorem discard_tFlip : (s.discard).tFlip = 0 := rfl
@[simp] theorem discard_bitIdx : (s.discard).bitIdx = 0 := rfl
@[simp] theorem discard_frame : (s.discard).frame = [] := rfl
@[simp] theorem discard_out : (s.discard).out = s.out := rfl
@[simp] theorem discard_wires : (s.discard).wires = s.wires := rfl
@[simp] theorem discard_stimulus : (s.discard).stimulus = s.stimulus := rfl
@[simp] theorem discard_cfg : (s.discard).cfg = s.cfg := rfl

/-! ### `raise` -/

@[simp] theorem raise_phase (e : OutEvent) : (s.raise e).phase = .search := rfl
@[simp] theorem raise_et (e : OutEvent) : (s.raise e).et = 0 := rfl
@[simp] theorem raise_prev (e : OutEvent) : (s.raise e).prev = .origin := rfl
@[simp] theorem raise_tSync0 (e : OutEvent) : (s.raise e).tSync0 = 0 := rfl
@[simp] theorem raise_dmin (e : OutEvent) : (s.raise e).dmin = s.cfg.sentHi := rfl
@[simp] theorem raise_dmax (e : OutEvent) : (s.raise e).dmax = s.cfg.sentLo := rfl
@[simp] theorem raise_thresh (e : OutEvent) : (s.raise e).thresh = 0 := rfl
@[simp] theorem raise_lvl (e : OutEvent) : (s.raise e).lvl = false := rfl
@[simp] theorem raise_tFlip (e : OutEvent) : (s.raise e).tFlip = 0 := rfl
@[simp] theorem raise_bitIdx (e : OutEvent) : (s.raise e).bitIdx = 0 := rfl
@[simp] theorem raise_frame (e : OutEvent) : (s.raise e).frame = [] := rfl
@[simp] theorem raise_out (e : OutEvent) : (s.raise e).out = e := rfl
@[simp] theorem raise_wires (e : OutEvent) : (s.raise e).wires = s.wires := rfl
@[simp] theorem raise_stimulus (e : OutEvent) : (s.raise e).stimulus = s.stimulus := rfl
@[simp] theorem raise_cfg (e : OutEvent) : (s.raise e).cfg = s.cfg := rfl

/-! ### `cancelled` -/

@[simp] theorem cancelled_phase : (s.cancelled).phase = .halt := rfl
@[simp] theorem cancelled_et : (s.cancelled).et = 0 := rfl
@[simp] theorem cancelled_prev : (s.cancelled).prev = .origin := rfl
@[simp] theorem cancelled_tSync0 : (s.cancelled).tSync0 = 0 := rfl
@[simp] theorem cancelled_dmin : (s.cancelled).dmin = s.cfg.sentHi := rfl
@[simp] theorem cancelled_dmax : (s.cancelled).dmax = s.cfg.sentLo := rfl
@[simp] theorem cancelled_thresh : (s.cancelled).thresh = 0 := rfl
@[simp] theorem cancelled_lvl : (s.cancelled).lvl = false := rfl
@[simp] theorem cancelled_tFlip : (s.cancelled).tFlip = 0 := rfl
@[simp] theorem cancelled_bitIdx : (s.cancelled).bitIdx = 0 := rfl
@[simp] theorem cancelled_frame : (s.cancelled).frame = [] := rfl
@[simp] theorem cancelled_out : (s.cancelled).out = s.out := rfl
@[simp] theorem cancelled_wires : (s.cancelled).wires = s.wires := rfl
@[simp] theorem cancelled_stimulus : (s.cancelled).stimulus = s.stimulus := rfl
@[simp] theorem cancelled_cfg : (s.cancelled).cfg = s.cfg := rfl

/-! ### `latchTrigger` -/

@[simp] theorem latchTrigger_phase (t : Nat) : (s.latchTrigger t).phase = s.phase := rfl
@[simp] theorem latchTrigger_et (t : Nat) : (s.latchTrigger t).et = s.et := rfl
@[simp] theorem latchTrigger_prev (t : Nat) : (s.latchTrigger t).prev = s.prev := rfl
@[simp] theorem latchTrigger_tSync0 (t : Nat) : (s.latchTrigger t).tSync0 = t := rfl
@[simp] theorem latchTrigger_dmin (t : Nat) : (s.latchTrigger t).dmin = s.dmin := rfl
@[simp] theorem latchTrigger_dmax (t : Nat) : (s.latchTrigger t).dmax = s.dmax := rfl
@[simp] theorem latchTrigger_thresh (t : Nat) : (s.latchTrigger t).thresh = s.thresh := rfl
@[simp] theorem latchTrigger_lvl (t : Nat) : (s.latchTrigger t).lvl = s.lvl := rfl
@[simp] theorem latchTrigger_tFlip (t : Nat) : (s.latchTrigger t).tFlip = s.tFlip := rfl
@[simp] theorem latchTrigger_bitIdx (t : Nat) : (s.latchTrigger t).bitIdx = s.bitIdx := rfl
@[simp] theorem latchTrigger_frame (t : Nat) : (s.latchTrigger t).frame = s.frame := rfl
@[simp] theorem latchTrigger_out (t : Nat) : (s.latchTrigger t).out = s.out := rfl
@[simp] theorem latchTrigger_wires (t : Nat) : (s.latchTrigger t).wires = s.wires := rfl
@[simp] theorem latchTrigger_stimulus (t : Nat) : (s.latchTrigger t).stimulus = s.stimulus := rfl
@[simp] theorem latchTrigger_cfg (t : Nat) : (s.latchTrigger t).cfg = s.cfg := rfl
@[simp] theorem latchTrigger_now (t : Nat) : (s.latchTrigger t).now = s.now := rfl

/-! ### `enterSync` -/

@[simp] theorem enterSync_phase : (s.enterSync).phase = .sync := rfl
@[simp] theorem enterSync_et : (s.enterSync).et = s.et := rfl
@[simp] theorem enterSync_prev : (s.enterSync).prev = s.prev := rfl
@[simp] theorem enterSync_tSync0 : (s.enterSync).tSync0 = s.tSync0 := rfl
@[simp] theorem enterSync_dmin : (s.enterSync).dmin = s.dmin := rfl
@[simp] theorem enterSync_dmax : (s.enterSync).dmax = s.dmax := rfl
@[simp] theorem enterSync_thresh : (s.enterSync).thresh = s.thresh := rfl
@[simp] theorem enterSync_lvl : (s.enterSync).lvl = s.lvl := rfl
@[simp] theorem enterSync_tFlip : (s.enterSync).tFlip = s.tFlip := rfl
@[simp] theorem enterSync_bitIdx : (s.enterSync).bitIdx = s.bitIdx := rfl
@[simp] theorem enterSync_frame : (s.enterSync).frame = s.frame := rfl
@[simp] theorem enterSync_out : (s.enterSync).out = s.out := rfl
@[simp] theorem enterSync_wires : (s.enterSync).wires = s.wires := rfl
@[simp] theorem enterSync_stimulus : (s.enterSync).stimulus = s.stimulus := rfl
@[simp] theorem enterSync_cfg : (s.enterSync).cfg = s.cfg := rfl
@[simp] theorem enterSync_now : (s.enterSync).now = s.now := rfl

/-! ### `setThresh` -/

@[simp] theorem setThresh_phase (v : NUM) : (s.setThresh v).phase = s.phase := rfl
@[simp] theorem setThresh_et (v : NUM) : (s.setThresh v).et = s.et := rfl
@[simp] theorem setThresh_prev (v : NUM) : (s.setThresh v).prev = s.prev := rfl
@[simp] theorem setThresh_tSync0 (v : NUM) : (s.setThresh v).tSync0 = s.tSync0 := rfl
@[simp] theorem setThresh_dmin (v : NUM) : (s.setThresh v).dmin = s.dmin := rfl
@[simp] theorem setThresh_dmax (v : NUM) : (s.setThresh v).dmax = s.dmax := rfl
@[simp] theorem setThresh_thresh (v : NUM) : (s.setThresh v).thresh = v := rfl
@[simp] theorem setThresh_lvl (v : NUM) : (s.setThresh v).lvl = s.lvl := rfl
@[simp] theorem setThresh_tFlip (v : NUM) : (s.setThresh v).tFlip = s.tFlip := rfl
@[simp] theorem setThresh_bitIdx (v : NUM) : (s.setThresh v).bitIdx = s.bitIdx := rfl
@[simp] theorem setThresh_frame (v : NUM) : (s.setThresh v).frame = s.frame := rfl
@[simp] theorem setThresh_out (v : NUM) : (s.setThresh v).out = s.out := rfl
@[simp] theorem setThresh_wires (v : NUM) : (s.setThresh v).wires = s.wires := rfl
@[simp] theorem setThresh_stimulus (v : NUM) : (s.setThresh v).stimulus = s.stimulus := rfl
@[simp] theorem setThresh_cfg (v : NUM) : (s.setThresh v).cfg = s.cfg := rfl
@[simp] theorem setThresh_now (v : NUM) : (s.setThresh v).now = s.now := rfl

/-! ### `enterData` -/

@[simp] theorem enterData_phase (t : Nat) : (s.enterData t).phase = .data := rfl
@[simp] theorem enterData_et (t : Nat) : (s.enterData t).et = s.et := rfl
@[simp] theorem enterData_prev (t : Nat) : (s.enterData t).prev = s.prev := rfl
@[simp] theorem enterData_tSync0 (t : Nat) : (s.enterData t).tSync0 = s.tSync0 := rfl
@[simp] theorem enterData_dmin (t : Nat) : (s.enterData t).dmin = s.dmin := rfl
@[simp] theorem enterData_dmax (t : Nat) : (s.enterData t).dmax = s.dmax := rfl
@[simp] theorem enterData_thresh (t : Nat) : (s.enterData t).thresh = s.thresh := rfl
@[simp] theorem enterData_lvl (t : Nat) : (s.enterData t).lvl = false := rfl
@[simp] theorem enterData_tFlip (t : Nat) : (s.enterData t).tFlip = t := rfl
@[simp] theorem enterData_bitIdx (t : Nat) : (s.enterData t).bitIdx = s.bitIdx := rfl
@[simp] theorem enterData_frame (t : Nat) : (s.enterData t).frame = s.frame := rfl
@[simp] theorem enterData_out (t : Nat) : (s.enterData t).out = s.out := rfl
@[simp] theorem enterData_wires (t : Nat) : (s.enterData t).wires = s.wires := rfl
@[simp] theorem enterData_stimulus (t : Nat) : (s.enterData t).stimulus = s.stimulus := rfl
@[simp] theorem enterData_cfg (t : Nat) : (s.enterData t).cfg = s.cfg := rfl
@[simp] theorem enterData_now (t : Nat) : (s.enterData t).now = s.now := rfl

/-! ### `setRange` -/

@[simp] theorem setRange_phase (lo hi : NUM) : (s.setRange lo hi).phase = s.phase := rfl
@[simp] theorem setRange_et (lo hi : NUM) : (s.setRange lo hi).et = s.et := rfl
@[simp] theorem setRange_prev (lo hi : NUM) : (s.setRange lo hi).prev = s.prev := rfl
@[simp] theorem setRange_tSync0 (lo hi : NUM) : (s.setRange lo hi).tSync0 = s.tSync0 := rfl
@[simp] theorem setRange_dmin (lo hi : NUM) : (s.setRange lo hi).dmin = lo := rfl
@[simp] theorem setRange_dmax (lo hi : NUM) : (s.setRange lo hi).dmax = hi := rfl
@[simp] theorem setRange_thresh (lo hi : NUM) : (s.setRange lo hi).thresh = s.thresh := rfl
@[simp] theorem setRange_lvl (lo hi : NUM) : (s.setRange lo hi).lvl = s.lvl := rfl
@[simp] theorem setRange_tFlip (lo hi : NUM) : (s.setRange lo hi).tFlip = s.tFlip := rfl
@[simp] theorem setRange_bitIdx (lo hi : NUM) : (s.setRange lo hi).bitIdx = s.bitIdx := rfl
@[simp] theorem setRange_frame (lo hi : NUM) : (s.setRange lo hi).frame = s.frame := rfl
@[simp] theorem setRange_out (lo hi : NUM) : (s.setRange lo hi).out = s.out := rfl
@[simp] theorem setRange_wires (lo hi : NUM) : (s.setRange lo hi).wires = s.wires := rfl
@[simp] theorem setRange_stimulus (lo hi : NUM) : (s.setRange lo hi).stimulus = s.stimulus := rfl
@[simp] theorem setRange_cfg (lo hi : NUM) : (s.setRange lo hi).cfg = s.cfg := rfl
@[simp] theorem setRange_now (lo hi : NUM) : (s.setRange lo hi).now = s.now := rfl

/-! ### `emit` -/

@[simp] theorem emit_phase (t : Nat) (level : Bool) (n : Nat) : (s.emit t level n).phase = s.phase := rfl
@[simp] theorem emit_et (t : Nat) (level : Bool) (n : Nat) : (s.emit t level n).et = s.et := rfl
@[simp] theorem emit_prev (t : Nat) (level : Bool) (n : Nat) : (s.emit t level n).prev = s.prev := rfl
@[simp] theorem emit_tSync0 (t : Nat) (level : Bool) (n : Nat) : (s.emit t level n).tSync0 = s.tSync0 := rfl
@[simp] theorem emit_dmin (t : Nat) (level : Bool) (n : Nat) : (s.emit t level n).dmin = s.dmin := rfl
@[simp] theorem emit_dmax (t : Nat) (level : Bool) (n : Nat) : (s.emit t level n).dmax = s.dmax := rfl
@[simp] theorem emit_thresh (t : Nat) (level : Bool) (n : Nat) : (s.emit t level n).thresh = s.thresh := rfl
@[simp] theorem emit_lvl (t : Nat) (level : Bool) (n : Nat) : (s.emit t level n).lvl = level := rfl
@[simp] theorem emit_tFlip (t : Nat) (level : Bool) (n : Nat) : (s.emit t level n).tFlip = t := rfl
@[simp] theorem emit_bitIdx (t : Nat) (level : Bool) (n : Nat) : (s.emit t level n).bitIdx = BitVec.ofNat 7 (s.bitIdx.toNat + n) := rfl
/-- The new `BITIDX` as a number, for a run that fits the frame. -/
theorem emit_bitIdx_toNat (t : Nat) (level : Bool) (n : Nat) (h : s.bitIdx.toNat + n ≤ 64) :
    (s.emit t level n).bitIdx.toNat = s.bitIdx.toNat + n := by
  rw [emit_bitIdx, BitVec.toNat_ofNat, Nat.mod_eq_of_lt (by omega)]
@[simp] theorem emit_frame (t : Nat) (level : Bool) (n : Nat) : (s.emit t level n).frame = s.frame.placeRun s.bitIdx.toNat n s.lvl := rfl
@[simp] theorem emit_out (t : Nat) (level : Bool) (n : Nat) : (s.emit t level n).out = s.out := rfl
@[simp] theorem emit_wires (t : Nat) (level : Bool) (n : Nat) : (s.emit t level n).wires = s.wires := rfl
@[simp] theorem emit_stimulus (t : Nat) (level : Bool) (n : Nat) : (s.emit t level n).stimulus = s.stimulus := rfl
@[simp] theorem emit_cfg (t : Nat) (level : Bool) (n : Nat) : (s.emit t level n).cfg = s.cfg := rfl
@[simp] theorem emit_now (t : Nat) (level : Bool) (n : Nat) : (s.emit t level n).now = s.now := rfl

/-! ### Compositions -/

@[simp] theorem discard_openStep : s.openStep.discard = s.discard.openStep := rfl
@[simp] theorem discard_discard : s.discard.discard = s.discard := rfl
@[simp] theorem discard_drive (e : OutEvent) : (s.drive e).discard = s.discard.drive e := rfl
@[simp] theorem discard_scan (x : Sample) : (s.scan x).discard = s.discard := rfl
@[simp] theorem discard_tick : s.tick.discard = s.discard := rfl
@[simp] theorem discard_emit (t : Nat) (level : Bool) (n : Nat) : (s.emit t level n).discard = s.discard := rfl
@[simp] theorem openStep_openStep : s.openStep.openStep = s.openStep := rfl
@[simp] theorem closeStep_openStep : s.openStep.closeStep = s.openStep := rfl

end Sys2Proof.Machine.State
end

