-- ==== Sys2Proof/Laws/Ops.lean ====
section
/-! SUPPORT. One lemma per shared operation that says once what it can do, for later proofs to cite. -/

namespace Sys2Proof.Machine

/-! ### Selection of micro-operations -/

@[simp] theorem State.whenSelected_eq (s : State) (u : Uop) (f : State → State) :
    s.whenSelected u f = .next (if s.selects u then f s else s) := rfl

theorem State.selects_scan (s : State) : s.selects .scan = decide (s.phase ≠ .halt) := by
  cases h : s.phase <;> simp [State.selects, Uop.phaseCodes, Phase.code, h]

theorem State.selects_sql (s : State) : s.selects .sql = decide (s.phase = .search) := by
  cases h : s.phase <;> simp [State.selects, Uop.phaseCodes, Phase.code, h]

theorem State.selects_demod (s : State) : s.selects .demod = decide (s.phase = .sync ∨ s.phase = .data) := by
  cases h : s.phase <;> simp [State.selects, Uop.phaseCodes, Phase.code, h]

theorem State.selects_syncacc (s : State) : s.selects .syncacc = decide (s.phase = .sync) := by
  cases h : s.phase <;> simp [State.selects, Uop.phaseCodes, Phase.code, h]

theorem State.selects_thr (s : State) :
    s.selects .thr = decide (s.phase = .sync ∨ s.phase = .search ∧ s.cfg.threshMode ≠ .preamble) := by
  cases h : s.phase <;> simp [State.selects, Uop.phaseCodes, Phase.code, h, beq_eq_decide]

theorem State.selects_enterdata (s : State) :
    s.selects .enterdata = decide (s.phase = .sync ∨ s.phase = .search ∧ s.cfg.threshMode ≠ .preamble) := by
  cases h : s.phase <;> simp [State.selects, Uop.phaseCodes, Phase.code, h, beq_eq_decide]

theorem State.selects_slice (s : State) : s.selects .slice = decide (s.phase = .data) := by
  cases h : s.phase <;> simp [State.selects, Uop.phaseCodes, Phase.code, h]

theorem State.selects_run (s : State) : s.selects .run = decide (s.phase = .data) := by
  cases h : s.phase <;> simp [State.selects, Uop.phaseCodes, Phase.code, h]

theorem State.selects_place (s : State) : s.selects .place = decide (s.phase = .data) := by
  cases h : s.phase <;> simp [State.selects, Uop.phaseCodes, Phase.code, h]

theorem State.selects_chk (s : State) : s.selects .chk = decide (s.phase = .data) := by
  cases h : s.phase <;> simp [State.selects, Uop.phaseCodes, Phase.code, h]

theorem State.selects_descr (s : State) : s.selects .descr = decide (s.phase = .data) := by
  cases h : s.phase <;> simp [State.selects, Uop.phaseCodes, Phase.code, h]

theorem State.selects_choice (s : State) : s.selects .choice = decide (s.phase = .data) := by
  cases h : s.phase <;> simp [State.selects, Uop.phaseCodes, Phase.code, h]

theorem State.selects_report (s : State) : s.selects .report = decide (s.phase = .data) := by
  cases h : s.phase <;> simp [State.selects, Uop.phaseCodes, Phase.code, h]

theorem State.selects_discard (s : State) : s.selects .discard = decide (s.phase = .sync ∨ s.phase = .data) := by
  cases h : s.phase <;> simp [State.selects, Uop.phaseCodes, Phase.code, h]

/-- In `HALT` the phase code selects no micro-operation. -/
theorem State.selects_halt (s : State) (h : s.phase = .halt) (u : Uop) : s.selects u = false := by
  cases u <;> simp [State.selects, Uop.phaseCodes, Phase.code, h]

/-! ### The slicer -/

/-- `complete` ends in `DISCARD` and an output, by the checksum verdict. -/
theorem State.complete_eq (s : State) :
    s.complete = s.raise (if s.frame.chk then .report s.frame.descr (choiceOf s.frame.nib) s.frame.nib else .checksumFail) := by
  unfold State.complete; split <;> rfl

/-- All that `RUN` can do: overflow, completion, or a run that leaves the frame unfilled. -/
theorem State.run_cases (s : State) (t : Nat) (level : Bool) :
    (64 < s.bitIdx.toNat + runLength s.cfg t s.tFlip ∧ s.run t level = s.raise (.framingFail .overflow)) ∨
    (s.bitIdx.toNat + runLength s.cfg t s.tFlip = 64 ∧
      s.run t level = (s.emit t level (runLength s.cfg t s.tFlip)).complete) ∨
    (s.bitIdx.toNat + runLength s.cfg t s.tFlip < 64 ∧ s.run t level = s.emit t level (runLength s.cfg t s.tFlip)) := by
  have hbits : Config.frameBits = 64 := rfl
  unfold State.run
  simp only [hbits]
  rcases Nat.lt_trichotomy (s.bitIdx.toNat + runLength s.cfg t s.tFlip) 64 with h | h | h
  · exact .inr (.inr ⟨h, by rw [if_neg (by omega), if_neg (by omega)]⟩)
  · exact .inr (.inl ⟨h, by rw [if_neg (by omega), if_pos h]⟩)
  · exact .inl ⟨h, by rw [if_pos h]⟩

/-- A run either ends the attempt with an output that is not `NONE`, or emits. -/
theorem State.run_raise_or_emit (s : State) (t : Nat) (level : Bool) :
    (∃ e, e ≠ .none ∧ s.run t level = s.raise e) ∨
    (s.bitIdx.toNat + runLength s.cfg t s.tFlip < 64 ∧ s.run t level = s.emit t level (runLength s.cfg t s.tFlip)) := by
  rcases s.run_cases t level with ⟨-, h⟩ | ⟨-, h⟩ | h
  · exact .inl ⟨_, by simp, h⟩
  · refine .inl ⟨_, ?_, h.trans (State.complete_eq _)⟩
    split <;> simp
  · exact .inr h

/-- All that one discriminator value can do in phase `DATA`. -/
theorem State.dataSample_cases (s : State) (t : Nat) (disc : Option NUM) :
    s.dataSample t disc = s ∨
    ∃ d, disc = some d ∧ sliceLevel s.cfg.sys d s.thresh ≠ s.lvl ∧ s.dataSample t disc = s.run t (sliceLevel s.cfg.sys d s.thresh) := by
  cases disc with
  | none => exact .inl rfl
  | some d =>
    by_cases h : sliceLevel s.cfg.sys d s.thresh = s.lvl
    · exact .inl (by simp [State.dataSample, h])
    · exact .inr ⟨d, rfl, h, by simp [State.dataSample, h]⟩

/-- All that one discriminator value can do in phase `SYNC`. -/
theorem State.syncSample_cases (s : State) (t : Nat) (disc : Option NUM) :
    (windowClosed s.cfg t s.tSync0 = false ∧ s.syncSample t disc = s.accumulate disc) ∨
    (windowClosed s.cfg t s.tSync0 = true ∧ s.syncSample t disc =
      ((s.accumulate disc).setThresh (thr s.cfg (s.accumulate disc).dmin (s.accumulate disc).dmax)).enterData t) := by
  cases h : windowClosed s.cfg t s.tSync0
  · exact .inl ⟨rfl, by simp [State.syncSample, h]⟩
  · exact .inr ⟨rfl, by simp [State.syncSample, h]⟩

/-- The trigger by mode. -/
theorem State.trigger_eq (s : State) (t : Nat) :
    s.trigger t = if s.cfg.threshMode = .preamble then (s.latchTrigger t).enterSync
      else ((s.latchTrigger t).setThresh (thr s.cfg s.dmin s.dmax)).enterData t := by
  unfold State.trigger State.sqlTrigger
  split <;> rfl

/-! ### The sample step, phase by phase -/

theorem State.sample_halt {s : State} (h : s.phase = .halt) (x : Sample) : s.sample x = s.openStep := by
  simp [State.sample, h]

theorem State.sample_search {s : State} (h : s.phase = .search) (x : Sample) :
    s.sample x = if trig s.cfg x then (s.openStep.scan x).trigger s.now else s.openStep.scan x := by
  simp [State.sample, h]

theorem State.sample_sync {s : State} (h : s.phase = .sync) (x : Sample) :
    s.sample x = if powerDropped s.cfg x then (s.openStep.scan x).raise (.framingFail .powerDrop)
      else (s.openStep.scan x).syncSample s.now (demod s.cfg.sys x s.prev) := by
  simp [State.sample, h]

theorem State.sample_data {s : State} (h : s.phase = .data) (x : Sample) :
    s.sample x = if powerDropped s.cfg x then (s.openStep.scan x).raise (.framingFail .powerDrop)
      else (s.openStep.scan x).dataSample s.now (demod s.cfg.sys x s.prev) := by
  simp [State.sample, h]

theorem State.injectSample_sync {s : State} (h : s.phase = .sync) (disc : Option NUM) :
    s.injectSample disc = .next (s.openStep.tick.syncSample s.now disc) := by
  simp [State.injectSample, h]

theorem State.injectSample_data {s : State} (h : s.phase = .data) (disc : Option NUM) :
    s.injectSample disc = .next (s.openStep.tick.dataSample s.now disc) := by
  simp [State.injectSample, h]

/-- A test-point line is refused outside an attempt's `SYNC` and `DATA`. -/
theorem State.injectSample_refused {s : State} (h : s.phase = .search ∨ s.phase = .halt) (disc : Option NUM) :
    s.injectSample disc = .refused .testPointOutsideAttempt := by
  rcases h with h | h <;> simp [State.injectSample, h]

/-! ### Whole operations -/

/-- `PLACE` inside the frame: the checked write never faults. -/
theorem execPlace_eq {k : Nat} (hk : k < 64) (b : Bool) (s : State) :
    execPlace k b s = .next (if s.phase = .data then { s with frame := s.frame.placeBit k b } else s) := by
  have hk8 : k / 8 < 8 := by omega
  have hbits : ¬ Config.frameBits ≤ k := by change ¬ 64 ≤ k; omega
  unfold execPlace
  rw [if_neg hbits, State.selects_place, Memory.store_eq, if_pos hk8]
  by_cases hp : s.phase = .data
  · rw [if_pos hp, decide_eq_true hp]; cases b <;> rfl
  · rw [if_neg hp, decide_eq_false hp]; rfl

/-- An operation answers a next state, but for a test-point line outside `SYNC` and `DATA`. -/
theorem exec_next_or_refused (i : Instr) (s : State) :
    (∃ s', exec i s = .next s') ∨
    ((s.phase = .search ∨ s.phase = .halt) ∧ (∃ d, i = .smp (.inject d)) ∧
      exec i s = .refused .testPointOutsideAttempt) := by
  cases i with
  | smp x =>
    cases x with
    | wires x => exact .inl ⟨_, rfl⟩
    | inject d =>
      change (∃ s', s.injectSample d = .next s') ∨ _
      cases h : s.phase
      · exact .inr ⟨.inl rfl, ⟨d, rfl⟩, State.injectSample_refused (.inl h) d⟩
      · exact .inl ⟨_, State.injectSample_sync h d⟩
      · exact .inl ⟨_, State.injectSample_data h d⟩
      · exact .inr ⟨.inr rfl, ⟨d, rfl⟩, State.injectSample_refused (.inr h) d⟩
  | place k b =>
    by_cases hk : k < 64
    · exact .inl ⟨_, execPlace_eq hk b s⟩
    · refine .inl ⟨s.drive (.framingFail .overflow), ?_⟩
      change execPlace k b s = _
      unfold execPlace
      rw [if_pos (by change 64 ≤ k; omega)]
  | _ => exact .inl ⟨_, rfl⟩

/-! ### The step -/

theorem step_nil {s : State} (h : s.stimulus = []) : step s = .next s := by
  simp [step, h, exec, execEos]

theorem step_cons {s : State} {ℓ : Line} {rest : List Line} (h : s.stimulus = ℓ :: rest) :
    step s = match decode ℓ with
      | .ok i => closeOutcome (exec i (s.fetch rest).openStep)
      | .error e => .refused (.undecodable e) := by
  cases s; cases h; rfl

/-- If a step answers a next state, it is the end of the stimulus or one decoded operation with its transients closed. -/
theorem step_next_cases {s s' : State} (h : step s = .next s') :
    (s.stimulus = [] ∧ s' = s) ∨
    ∃ ℓ rest i u, s.stimulus = ℓ :: rest ∧ decode ℓ = .ok i ∧ exec i (s.fetch rest).openStep = .next u ∧
      s' = u.closeStep := by
  cases hs : s.stimulus with
  | nil => rw [step_nil hs] at h; cases h; exact .inl ⟨rfl, rfl⟩
  | cons ℓ rest =>
    rw [step_cons hs] at h
    refine .inr ⟨ℓ, rest, ?_⟩
    cases hd : decode ℓ with
    | error e => rw [hd] at h; cases h
    | ok i =>
      rw [hd] at h
      cases he : exec i (s.fetch rest).openStep with
      | next u => simp only [he, closeOutcome] at h; cases h; exact ⟨i, u, rfl, rfl, he, rfl⟩
      | fault f => simp only [he, closeOutcome] at h; cases h
      | refused r => simp only [he, closeOutcome] at h; cases h

end Sys2Proof.Machine
end

