-- ==== Sys2Proof/Laws/PerInstr.lean ====
section
/-! SUPPORT. Statements made of every operation, one lemma per constructor. -/

/-- An operation has a word of its own exactly when no phase code selects it: the micro-operations of format UOP are
selected by the value of `PHASE` (rule R95), every other row has a line. -/
def Sys2Proof.Laws.WordOrPhase.Statement (i : Sys2Proof.Instr) : Prop :=
  (Sys2Proof.encode i).isSome = true ↔ i.uop = none

namespace Sys2Proof.Laws.WordOrPhase

theorem rst : Statement .rst := by
  simp [Statement, encode, Instr.uop]

theorem cancel : Statement .cancel := by
  simp [Statement, encode, Instr.uop]

theorem smp : ∀ x, Statement (.smp x) := by
  intro x; cases x <;> simp [Statement, encode, Instr.uop]

theorem idle : Statement .idle := by
  simp [Statement, encode, Instr.uop]

theorem eos : Statement .eos := by
  simp [Statement, encode, Instr.uop]

theorem scan : ∀ x, Statement (.scan x) := by
  simp [Statement, encode, Instr.uop]

theorem sql : ∀ x t, Statement (.sql x t) := by
  simp [Statement, encode, Instr.uop]

theorem demod : ∀ x, Statement (.demod x) := by
  simp [Statement, encode, Instr.uop]

theorem syncacc : ∀ disc, Statement (.syncacc disc) := by
  simp [Statement, encode, Instr.uop]

theorem thr : ∀ lo hi, Statement (.thr lo hi) := by
  simp [Statement, encode, Instr.uop]

theorem enterdata : ∀ t, Statement (.enterdata t) := by
  simp [Statement, encode, Instr.uop]

theorem slice : ∀ d, Statement (.slice d) := by
  simp [Statement, encode, Instr.uop]

theorem run : ∀ t level, Statement (.run t level) := by
  simp [Statement, encode, Instr.uop]

theorem place : ∀ k b, Statement (.place k b) := by
  simp [Statement, encode, Instr.uop]

theorem chk : Statement .chk := by
  simp [Statement, encode, Instr.uop]

theorem descr : Statement .descr := by
  simp [Statement, encode, Instr.uop]

theorem choice : Statement .choice := by
  simp [Statement, encode, Instr.uop]

theorem report : ∀ id c nib, Statement (.report id c nib) := by
  simp [Statement, encode, Instr.uop]

theorem discard : Statement .discard := by
  simp [Statement, encode, Instr.uop]

theorem nibA : Statement .nibA := by
  simp [Statement, encode, Instr.uop]

theorem nibB : Statement .nibB := by
  simp [Statement, encode, Instr.uop]

theorem nibC : Statement .nibC := by
  simp [Statement, encode, Instr.uop]

theorem nibD : Statement .nibD := by
  simp [Statement, encode, Instr.uop]

theorem nibE : Statement .nibE := by
  simp [Statement, encode, Instr.uop]

theorem nibUnrecognized : ∀ n, Statement (.nibUnrecognized n) := by
  simp [Statement, encode, Instr.uop]

theorem frame : ∀ addr in0 in1 in2 in3hi nib csum, Statement (.frame addr in0 in1 in2 in3hi nib csum) := by
  simp [Statement, encode, Instr.uop]

theorem outNone : Statement .outNone := by
  simp [Statement, encode, Instr.uop]

theorem outReport : ∀ id c nib, Statement (.outReport id c nib) := by
  simp [Statement, encode, Instr.uop]

theorem outFramingFail : ∀ cause, Statement (.outFramingFail cause) := by
  simp [Statement, encode, Instr.uop]

theorem outChecksumFail : Statement .outChecksumFail := by
  simp [Statement, encode, Instr.uop]

theorem perm : ∀ in0 in1 in2 in3, Statement (.perm in0 in1 in2 in3) := by
  simp [Statement, encode, Instr.uop]

end Sys2Proof.Laws.WordOrPhase
end

