-- ==== Sys2Proof/Laws/Runs.lean ====
section
/-! SUPPORT. Executing operations one after the other, and the placements of a run. -/

namespace Sys2Proof.Machine

@[simp] theorem execAll_nil (s : State) : execAll [] s = .next s := rfl

theorem execAll_cons {i : Instr} {s s' : State} (h : exec i s = .next s') (is : List Instr) :
    execAll (i :: is) s = execAll is s' := by
  simp [execAll, h]

theorem placements_succ (k n : Nat) (b : Bool) : placements k (n + 1) b = .place k b :: placements (k + 1) n b := by
  simp [placements, List.range_succ_eq_map, Nat.add_assoc, Nat.add_comm 1]

/-- In `DATA` the placements of a run that fits leave the frame with the run placed and nothing else changed. -/
theorem execAll_placements {k n : Nat} (b : Bool) {s : State} (hp : s.phase = .data) (h : k + n ≤ 64) :
    execAll (placements k n b) s = .next { s with frame := s.frame.placeRun k n b } := by
  induction n generalizing k s with
  | zero => rfl
  | succ n ih =>
    have he : exec (.place k b) s = .next { s with frame := s.frame.placeBit k b } :=
      (execPlace_eq (by omega) b s).trans (by rw [if_pos hp])
    rw [placements_succ, execAll_cons he]
    exact ih hp (by omega)

end Sys2Proof.Machine
end

