-- ==== Sys2Proof/Tests/Slice0.lean ====
section
/-! SUPPORT. Tests: ill-formed terms refused, words written out from the tables of `spec/30_encoding.md`, single steps
whose expected values are the spec's own examples (the rule or vector is named), and for every statement of
`Certificates/Slice0/Obligations.lean` with hypotheses a concrete state that meets them. -/

namespace Sys2Proof.Tests

open Sys2Proof Sys2Proof.Machine

/-- The default configuration of `spec/95_test_vectors.md`. -/
def cfg : Params :=
  { num := .rationals 0, squelch := 4 / 5, sizeSync := 24, timeStep := 1, unitInterval := 4, threshMode := .fixed, threshFixed := 0,
    sentHi := 1000, sentLo := -1000, abortOnPowerDrop := false, timeStep_pos := by decide,
    unitInterval_pos := by decide, sent_le := by decide +kernel }

/-- The configuration of vector V-SYNC-1, with the power-drop abort on. -/
def cfgSync : Params := { cfg with threshMode := .preamble, sizeSync := 2, abortOnPowerDrop := true }

/-- The reset state under the default configuration. -/
def start0 : State := .resetWith cfg

/-- Phase `DATA` entered at time 10, as in rule R164. -/
def data10 : State := { start0 with phase := .data, et := 10, tFlip := 10, tSync0 := 10, prev := ⟨1, 0⟩ }

/-- Phase `SYNC` after the trigger of vector V-SYNC-1. -/
def sync1 : State := { State.resetWith cfgSync with phase := .sync, et := 1, tSync0 := 1, prev := ⟨1, 0⟩ }

/-- The machine halted. -/
def halted : State := { start0 with phase := .halt }

/-- The scenario's frame `11 22 33 5D 98 F5 E5 CF` (vector S7) in the frame store, all 64 bits placed. -/
def frameGood : Memory :=
  [(0, 0x11), (1, 0x22), (2, 0x33), (3, 0x5D), (4, 0x98), (5, 0xF5), (6, 0xE5), (7, 0xCF)]

/-- Whether an outcome is a next state with a property. -/
def nextIs (o : Host.Outcome State Fault Refusal) (p : State → Bool) : Bool :=
  match o with
  | .next s => p s
  | .fault _ => false
  | .refused _ => false

/-- Whether an outcome is exactly a given next state. -/
def gives (o : Host.Outcome State Fault Refusal) (t : State) : Bool := nextIs o fun s => decide (s = t)

/-! ### WellFormed: each check refuses an ill-formed term -/

theorem test_wellFormed_refuses_mapped_code : (Instr.nibUnrecognized 0x1).WellFormed = false := by decide
theorem test_wellFormed_refuses_bit_index_64 : (Instr.place 64 true).WellFormed = false := by decide
theorem test_wellFormed_admits : (Instr.nibUnrecognized 0x0).WellFormed = true ∧ (Instr.place 63 true).WellFormed = true := by
  decide

/-! ### Configuration: each check refuses by name (rules R8, R11, R35), and the reference interval (rule R9) -/

/-- The default configuration as an environment offers it. -/
def raw : RawParams :=
  { num := .admitted (.rationals 0), squelch := 4 / 5, sizeSync := 24, frameBytes := 8, timeStep := 1, unitInterval := 4, threshMode := .fixed,
    threshFixed := 0, sentHi := 1000, sentLo := -1000, abortOnPowerDrop := false }

theorem test_config_timeStep : Config.check { raw with timeStep := 0 } = .error .timeStepZero := by decide
theorem test_config_unitInterval : Config.check { raw with unitInterval := 0 } = .error .unitIntervalZero := by decide
theorem test_config_num : Config.check { raw with num := .inexact } = .error .numInexact := by decide
theorem test_config_arg : Config.check { raw with num := .unlawfulArg } = .error .argUnlawful := by decide
theorem test_config_sentinels :
    Config.check { raw with sentHi := -1, sentLo := 1 } = .error .sentinelsCrossed := by decide
theorem test_config_frameBytes : Config.check { raw with frameBytes := 7 } = .error .frameNotEightBytes := by decide
theorem test_config_legal : Config.check raw = .ok cfg := by decide +kernel
theorem test_config_reference_interval : Config.unitIntervalOf 152381 = 6562 := by decide

/-! ### Decoding: words written out from the tables -/

theorem test_decode_idle : decode (.port 0b000 ⟨5, 6⟩) = .ok .idle := by decide
theorem test_decode_smp : decode (.port 0b001 ⟨5, 6⟩) = .ok (.smp (.wires ⟨5, 6⟩)) := by decide
theorem test_decode_cancel :
    decode (.port 0b010 ⟨0, 0⟩) = .ok .cancel ∧ decode (.port 0b011 ⟨0, 0⟩) = .ok .cancel := by decide
theorem test_decode_rst :
    ∀ c : ControlWord, c ∈ [0b100, 0b101, 0b110, 0b111] → decode (.port c ⟨0, 0⟩) = .ok .rst := by decide
theorem test_decode_eos : decode .eos = .ok .eos := by decide
theorem test_decode_testPoint :
    decode (.inject (some 3)) = .ok (.smp (.inject (some 3))) ∧ decode (.inject none) = .ok (.smp (.inject none)) := by
  decide
theorem test_decode_nib :
    decode (.nib 0b0001) = .ok .nibA ∧ decode (.nib 0b0101) = .ok .nibB ∧ decode (.nib 0b1101) = .ok .nibC ∧
    decode (.nib 0b1110) = .ok .nibD ∧ decode (.nib 0b1010) = .ok .nibE := by decide
theorem test_decode_nib_unrecognized :
    ∀ n : Nibble, n ∈ [0x0, 0x2, 0x3, 0x4, 0x6, 0x7, 0x8, 0x9, 0xB, 0xC, 0xF] →
      decode (.nib n) = .ok (.nibUnrecognized n) := by decide
theorem test_decode_frame :
    decode (.frame 0x1122335D98F5E5CF) = .ok (.frame 0x112233 0x5D 0x98 0xF5 0xE 0x5 0xCF) := by decide
theorem test_decode_perm : decode (.perm 0x5D98F5E5) = .ok (.perm 0x5D 0x98 0xF5 0xE5) := by decide
theorem test_decode_outNone : decode (.out 0) = .ok .outNone := by decide
theorem test_decode_outReport :
    decode (.out 0b010101010111100110111101111100010010010101) =
      .ok (.outReport ⟨0xAB, 0xCD, 0xEF, 0x89⟩ .B 0x5) := by decide
theorem test_decode_outFramingFail :
    decode (.out 0b100000000000000000000000000000000000000000) = .ok (.outFramingFail .overflow) ∧
    decode (.out 0b101000000000000000000000000000000000000000) = .ok (.outFramingFail .powerDrop) := by decide
theorem test_decode_outChecksumFail :
    decode (.out 0b110000000000000000000000000000000000000000) = .ok .outChecksumFail := by decide
theorem test_decode_out_refuses_choice_5 :
    decode (.out 0b010101010111100110111101111100010011010101) = .error .choiceCode := by decide
/-- Rule R96: what each phase code selects (the fourteen micro-operations). -/
theorem test_decode_uop_search : decodeUop 0b00 = [.scan, .sql, .thr, .enterdata] := by decide
theorem test_decode_uop_sync : decodeUop 0b01 = [.scan, .discard, .demod, .syncacc, .thr, .enterdata] := by decide
theorem test_decode_uop_data :
    decodeUop 0b10 =
      [.scan, .discard, .demod, .slice, .run, .discard, .place, .chk, .descr, .choice, .report, .discard] := by decide
theorem test_decode_uop_halt : decodeUop 0b11 = [] := by decide
/-- Words as the opcode table numbers them: `RST`, `CANCEL`, the scenario's frame. -/
theorem test_decode_table_words :
    decodeTableWord 3 0b100 = some .rst ∧ decodeTableWord 8 0b010 = some .cancel ∧ decodeTableWord 0 0 = some .eos ∧
    decodeTableWord 8 0xD = some .nibC ∧ decodeTableWord 8 0x10 = none ∧
    decodeTableWord 64 0x1122335D98F5E5CF = some (.frame 0x112233 0x5D 0x98 0xF5 0xE 0x5 0xCF) := by decide
/-- A table word runs as the first instruction after reset. -/
theorem test_table_word_runs :
    nextIs (step (State.reset.withFetchWord 8 0b010)) (fun t => decide (t.phase = .halt)) = true := by decide
/-- Rule R101 and program P6: the quadrant string of `ROT+ 2`, `HOLD 1`, `ROT- 2` after `Q0`. -/
theorem test_quadrants :
    Turn.plus.quadrants 0 2 ++ Turn.hold.quadrants 2 1 ++ Turn.minus.quadrants 2 2 = [1, 2, 2, 1, 0] := by decide

/-! ### Single steps, expected values from the spec -/

/-- R225, its example: in `DATA` with `BITIDX = 40`, `RST` gives the reset state. -/
theorem test_rst_in_data :
    gives (exec .rst { data10 with bitIdx := 40, frame := frameGood, lvl := true }) start0 = true := by
  decide +kernel
theorem test_cancel_in_data :
    gives (exec .cancel data10) halted = true := by
  decide +kernel
/-- R228: in `HALT` a sample is ignored. -/
theorem test_halt_ignores_sample :
    gives (exec (.smp (.wires ⟨1, 0⟩)) halted) halted = true := by
  decide +kernel
/-- V-SCAN-1, third event: the trigger in mode `FIXED`. -/
theorem test_smp_trigger :
    gives (exec (.smp (.wires ⟨1, 0⟩)) { start0 with et := 2 }) { start0 with
        phase := .data, et := 3, tSync0 := 3, tFlip := 3, prev := ⟨1, 0⟩ } = true := by
  decide +kernel
/-- R164: `D -1` at `t = 19` is the flip that places bits 0 and 1 as 1. -/
theorem test_smp_run_of_two :
    gives (exec (.smp (.inject (some (-1)))) { data10 with et := 18, tFlip := 11, lvl := true }) { data10 with et := 19, tFlip := 19, bitIdx := 2, frame := [(0, 0xC0)] } = true := by
  decide +kernel
/-- V-SCAN-2: `IDLE` does not advance time. -/
theorem test_idle :
    gives (exec .idle { start0 with et := 1 }) { start0 with et := 1 } = true := by
  decide +kernel
theorem test_eos :
    gives (exec .eos data10) data10 = true := by
  decide +kernel
/-- V-SCAN-4: a time step of 500. -/
theorem test_scan_time_step :
    nextIs (exec (.scan ⟨1, 0⟩) { start0 with et := 500, cfg := { cfg with timeStep := 500, timeStep_pos := by decide } })
      (fun t => decide (t.et = 1000 ∧ t.prev = ⟨1, 0⟩)) = true := by decide
/-- R129: equality triggers, `89/100` does not. -/
theorem test_sql_equality :
    nextIs (exec (.sql ⟨4 / 5, 2 / 5⟩ 7) sync1.discard)
      (fun t => decide (t.wires.p = 4 / 5 ∧ t.wires.trig = true ∧ t.tSync0 = 7 ∧ t.phase = .sync)) = true := by
  decide +kernel
theorem test_sql_below :
    nextIs (exec (.sql ⟨89 / 100, 0⟩ 7) start0)
      (fun t => decide (t.wires.p = 7921 / 10000 ∧ t.wires.trig = false ∧ t.tSync0 = 0)) = true := by
  decide +kernel
/-- R142, first example: `re = 0`, `im = 1`. -/
theorem test_demod_quarter_turn :
    nextIs (exec (.demod ⟨0, 1⟩) data10) (fun t => decide (t.wires.re = 0 ∧ t.wires.im = 1)) = true := by decide +kernel
/-- R142: an invalid discriminator against the zero sample. -/
theorem test_demod_invalid :
    nextIs (exec (.demod ⟨0, 0⟩) { data10 with prev := ⟨3, 4⟩ })
      (fun t => decide (t.wires.re = 0 ∧ t.wires.im = 0 ∧ t.wires.disc = none)) = true := by decide +kernel
/-- V-SYNC-1, event 1: the first valid value becomes both extremes. -/
theorem test_syncacc_first :
    gives (exec (.syncacc (some (1 / 2))) sync1) { sync1 with dmin := 1 / 2, dmax := 1 / 2 } = true := by
  decide +kernel
theorem test_syncacc_invalid :
    gives (exec (.syncacc none) sync1) sync1 = true := by
  decide +kernel
/-- R152: half the range, not the midpoint. -/
theorem test_thr_half_range :
    gives (exec (.thr (1 / 4) (3 / 4)) sync1) { sync1 with thresh := 1 / 4 } = true := by
  decide +kernel
theorem test_thr_sentinel :
    gives (exec (.thr 1 2) { start0 with cfg := { cfg with threshMode := .sentinel } }) { start0 with thresh := -1000, cfg := { cfg with threshMode := .sentinel } } = true := by
  decide +kernel
theorem test_enterdata :
    gives (exec (.enterdata 9) { sync1 with lvl := true }) { sync1 with phase := .data, lvl := false, tFlip := 9 } = true := by
  decide +kernel
/-- R154: equality gives level false. -/
theorem test_slice_equality :
    nextIs (exec (.slice 0) { data10 with wires := { Wires.idle with level := true } })
      (fun t => decide (t.wires.level = false)) = true := by decide +kernel
/-- R184: a run that crosses a byte boundary. -/
theorem test_run_crosses_byte :
    nextIs (exec (.run 27 false) { data10 with lvl := true, bitIdx := 6 })
      (fun t => decide (t.frame = [(0, 0x03), (1, 0xC0)] ∧ t.bitIdx = 10 ∧ t.tFlip = 27)) = true := by decide +kernel
/-- R157: a run past the frame is the framing failure; the reset state follows. -/
theorem test_run_overflow :
    nextIs (exec (.run 18 true) { data10 with bitIdx := 63 })
      (fun t => decide (t.out = .framingFail .overflow ∧ t.phase = .search ∧ t.bitIdx = 0)) = true := by decide +kernel
/-- R180: bit index 63 is bit 0 of byte 7. -/
theorem test_place_63 :
    gives (exec (.place 63 true) data10) { data10 with frame := [(7, 0x01)] } = true := by
  decide +kernel
theorem test_place_64 :
    gives (exec (.place 64 false) data10) { data10 with out := .framingFail .overflow } = true := by
  decide +kernel
/-- V-CHK: the scenario's frame is valid, its checksum off by one is not. -/
theorem test_chk_good :
    nextIs (exec .chk { data10 with frame := frameGood }) (fun t => t.wires.valid) = true := by decide
theorem test_chk_bad :
    nextIs (exec .chk { data10 with frame := frameGood.put 7 0xD0 }) (fun t => !t.wires.valid) = true := by decide
/-- S7: the scenario's identifier. -/
theorem test_descr :
    nextIs (exec .descr { data10 with frame := frameGood })
      (fun t => decide (t.wires.id = ⟨0xAB, 0xCD, 0xEF, 0x89⟩)) = true := by decide
/-- R205: all ones. -/
theorem test_descr_ones : descramble 0xFF 0xFF 0xFF 0xFF = ⟨0xFF, 0xFF, 0xFF, 0xFF⟩ := by decide
theorem test_choice :
    nextIs (exec .choice { data10 with frame := frameGood })
      (fun t => decide (t.wires.choice = some .B ∧ t.wires.nib = 0x5)) = true := by decide
theorem test_report :
    gives (exec (.report ⟨1, 2, 3, 0⟩ .unrecognized 0) data10) { data10 with out := .report ⟨1, 2, 3, 0⟩ .unrecognized 0 } = true := by
  decide +kernel
theorem test_discard :
    gives (exec .discard { data10 with frame := frameGood, bitIdx := 64 }) start0 = true := by
  decide +kernel
theorem test_nibA : nextIs (exec .nibA start0) (fun t => decide (t.wires.choice = some .A)) = true := by decide
theorem test_nibB : nextIs (exec .nibB start0) (fun t => decide (t.wires.choice = some .B)) = true := by decide
theorem test_nibC : nextIs (exec .nibC start0) (fun t => decide (t.wires.choice = some .C)) = true := by decide
theorem test_nibD : nextIs (exec .nibD start0) (fun t => decide (t.wires.choice = some .D)) = true := by decide
theorem test_nibE : nextIs (exec .nibE start0) (fun t => decide (t.wires.choice = some .E)) = true := by decide
theorem test_nibUnrecognized :
    nextIs (exec (.nibUnrecognized 0xF) start0)
      (fun t => decide (t.wires.choice = some .unrecognized ∧ t.wires.nib = 0xF)) = true := by decide
theorem test_frame :
    nextIs (exec (.frame 0x112233 0x5D 0x98 0xF5 0xE 0x5 0xCF) start0)
      (fun t => decide (t.wires.in0 = 0x5D ∧ t.wires.in3 = 0xE5 ∧ t.wires.nib = 0x5 ∧ t.wires.csum = 0xCF)) = true := by
  decide
/-- SCR's rows `DE AD BE` and `12 34 56` of `spec/95_test_vectors.md`. -/
theorem test_perm :
    nextIs (exec (.perm 0xF5 0x59 0xDC 0xC0) start0) (fun t => decide (t.wires.id = ⟨0xDE, 0xAD, 0xBE, 0xCD⟩)) = true := by
  decide
theorem test_scramble : scramble 0x12 0x34 0x56 0 = (0x90, 0x68, 0x28, 0xC0) := by decide
theorem test_outNone :
    gives (exec .outNone { start0 with out := .checksumFail }) start0 = true := by
  decide +kernel
theorem test_outReport : nextIs (exec (.outReport ⟨1, 2, 3, 0⟩ .A 1) halted)
    (fun t => decide (t.out = .report ⟨1, 2, 3, 0⟩ .A 1)) = true := by decide
theorem test_outFramingFail : nextIs (exec (.outFramingFail .powerDrop) start0)
    (fun t => decide (t.out = .framingFail .powerDrop)) = true := by decide
theorem test_outChecksumFail : nextIs (exec .outChecksumFail start0)
    (fun t => decide (t.out = .checksumFail)) = true := by decide
/-- R100: the response line of the scenario. -/
theorem test_response :
    (OutEvent.report ⟨0xAB, 0xCD, 0xEF, 0x89⟩ .B 0x5).response = "REPORT ABCDEF89 B 5".toList := by decide

/-! ### Witnesses: a concrete input that meets the hypotheses of each statement, clause by clause -/

/-- A state of phase `DATA` with one bit placed, in the preamble configuration with the power-drop abort on. -/
def data1 : State :=
  { State.resetWith cfgSync with
    phase := .data, et := 20, tFlip := 18, tSync0 := 1, prev := ⟨1, 0⟩, lvl := true, bitIdx := 1, frame := [(0, 0x80)] }

theorem witness_StepKeepsGoodState_state : GoodState data1 where
  frame_wf := by decide
  bitIdx_le := by decide
  frame_empty h := absurd rfl h
  bits_clear _ k h1 h2 := by
    have h1 : 1 ≤ k := h1
    interval_cases k <;> decide
  tFlip_le _ := by decide
  tSync0_le h := by cases h
  halt_reset h := by cases h
  search_reset h := by cases h
  prev_power _ _ _ := by decide +kernel
  sync_mode h := by cases h

/-- One more bit of level false fills the frame exactly (rule R160): the next time, 14, is one interval on. -/
def dataFull : State := { data10 with et := 13, bitIdx := 63, frame := [] }

theorem witness_StepKeepsGoodState : ∃ s', step data1 = .next s' := ⟨_, rfl⟩
theorem witness_StepTakesOneLineAndKeepsConfiguration :
    ∃ s', step { data1 with stimulus := [lineIdle, lineRst] } = .next s' := ⟨_, rfl⟩
theorem witness_IllegalConfigurationIsRefused_legal :
    let r := { raw with sentHi := 0, sentLo := 0, timeStep := 1, unitInterval := 1 }
    r.num = .admitted (.rationals 0) ∧ ¬(r.timeStep = 0 ∨ r.unitInterval = 0 ∨
      (NumChoice.rationals 0).system.lt r.sentHi r.sentLo = true ∨ r.frameBytes ≠ 8) := by decide +kernel
theorem witness_IllegalConfigurationIsRefused_illegal :
    let r := { raw with frameBytes := 9 }
    r.num = .admitted (.rationals 0) ∧ (r.timeStep = 0 ∨ r.unitInterval = 0 ∨
      (NumChoice.rationals 0).system.lt r.sentHi r.sentLo = true ∨ r.frameBytes ≠ 8) := by decide +kernel
theorem witness_IllegalConfigurationIsRefused_num :
    let r := { raw with num := .inexact }
    r.num = .inexact ∨ r.num = .unlawfulArg := by decide
theorem witness_DecodeOfEncodeIsIdentity :
    (Instr.nibUnrecognized 0xF).WellFormed = true ∧ encode (.nibUnrecognized 0xF) = some (.nib 0xF) := by decide
theorem witness_EncodeOfDecodeIsIdentity :
    decode (.nib 0xF) = .ok (.nibUnrecognized 0xF) ∧ ∀ c x, Line.nib 0xF ≠ .port c x :=
  ⟨rfl, fun _ _ h => by cases h⟩
theorem witness_StepRunsDecodedInstruction_line :
    ({ data1 with stimulus := [lineCancel] } : State).stimulus = lineCancel :: [] ∧ decode lineCancel = .ok .cancel ∧
    Instr.cancel.WellFormed = true := by decide
theorem witness_StepRunsDecodedInstruction_end : data1.stimulus = [] := rfl
theorem witness_UnselectedMicroOperationsChangeNothing_code :
    Instr.chk.uop = some .chk ∧ Instr.chk.WellFormed = true ∧ start0.phase.code ∉ Uop.chk.phaseCodes := by decide
theorem witness_UnselectedMicroOperationsChangeNothing_mode :
    (Instr.thr 0 0).uop = some .thr ∧ (Instr.thr 0 0).WellFormed = true ∧ sync1.discard.phase = .search ∧
    sync1.discard.cfg.threshMode = .preamble := by decide
theorem witness_CancelHalts : data1.phase ≠ .halt ∧ halted.phase = .halt := by decide
theorem witness_HaltIsLeftOnlyByReset :
    halted.phase = .halt ∧ (∃ t, exec .cancel halted = .next t) ∧ Instr.cancel ≠ .rst := ⟨rfl, ⟨_, rfl⟩, by decide⟩
theorem witness_IdleEventsCanBeRemoved :
    (feed [lineIdle, lineDisc 1, lineIdle] data10).isSome = true := by decide +kernel
theorem witness_EndOfStimulusChangesNothing : data10.stimulus = [] := rfl
theorem witness_ReportDrivesTheOutput : data10.phase = .data := rfl
theorem witness_DiscardIsTheAttemptReset_sync : sync1.phase = .sync ∨ sync1.phase = .data := .inl rfl
theorem witness_DiscardIsTheAttemptReset_data : data10.phase = .sync ∨ data10.phase = .data := .inr rfl
theorem witness_OutcomeLeavesResetRegisters :
    nextIs (exec (.smp (.inject (some 1))) dataFull) (fun t => decide (t.out ≠ .none)) = true := by decide +kernel
theorem witness_SearchStepRunsItsMicroOperations_trigger :
    start0.phase = .search ∧ start0.cfg.sys.le start0.cfg.squelch (pow start0.cfg.sys ⟨4 / 5, 2 / 5⟩) = true ∧
    start0.cfg.threshMode ≠ .preamble := by decide +kernel
theorem witness_SearchStepRunsItsMicroOperations_below :
    start0.phase = .search ∧ ¬ start0.cfg.sys.le start0.cfg.squelch (pow start0.cfg.sys ⟨89 / 100, 0⟩) = true := by decide +kernel
/-- The window of 8 time units closes exactly (`8 <= 9 - 1`). -/
theorem witness_SyncStepRunsItsMicroOperations_close :
    let s := { sync1 with et := 8 }
    s.phase = .sync ∧ ¬(s.cfg.abortOnPowerDrop = true ∧ s.cfg.sys.lt (pow s.cfg.sys ⟨1, 0⟩) s.cfg.squelch = true) ∧
    s.cfg.sizeSync * s.cfg.unitInterval ≤ s.et + s.cfg.timeStep - s.tSync0 := by decide +kernel
theorem witness_SyncStepRunsItsMicroOperations_open :
    let s := { sync1 with et := 7 }
    s.phase = .sync ∧ ¬(s.cfg.abortOnPowerDrop = true ∧ s.cfg.sys.lt (pow s.cfg.sys ⟨1, 0⟩) s.cfg.squelch = true) ∧
    ¬ s.cfg.sizeSync * s.cfg.unitInterval ≤ s.et + s.cfg.timeStep - s.tSync0 := by decide +kernel
/-- Low power under `ABORT_ON_POWER_DROP`, in both phases. -/
theorem witness_SyncAndDataStepRunTheirMicroOperations_abort :
    sync1.phase = .sync ∧ data1.phase = .data ∧
    (sync1.cfg.abortOnPowerDrop = true ∧ sync1.cfg.sys.lt (pow sync1.cfg.sys ⟨1 / 2, 0⟩) sync1.cfg.squelch = true) ∧
    data1.cfg.abortOnPowerDrop = true ∧ data1.cfg.sys.lt (pow data1.cfg.sys ⟨1 / 2, 0⟩) data1.cfg.squelch = true := by
  decide +kernel
theorem witness_DataStepRunsItsMicroOperations :
    data1.phase = .data ∧
    ¬(data1.cfg.abortOnPowerDrop = true ∧ data1.cfg.sys.lt (pow data1.cfg.sys ⟨0, 1⟩) data1.cfg.squelch = true) := by
  decide +kernel
/-- `RUN`'s three cases: 65, 64 and 63 bits. -/
theorem witness_DataStepRunsItsMicroOperations_run :
    dataFull.phase = .data ∧
    dataFull.bitIdx.toNat + (18 - dataFull.tFlip) / dataFull.cfg.unitInterval = 65 ∧
    dataFull.bitIdx.toNat + (14 - dataFull.tFlip) / dataFull.cfg.unitInterval = 64 ∧
    dataFull.bitIdx.toNat + (13 - dataFull.tFlip) / dataFull.cfg.unitInterval = 63 := by decide
theorem witness_SampleStepIsTheComposition :
    start0.phase ≠ .halt ∧ sync1.phase ≠ .halt ∧ data1.phase ≠ .halt := by decide
theorem witness_HaltIgnoresSamples : halted.phase = .halt := rfl
theorem witness_ScanAdvancesTimeAndRecordsSample : data10.phase ≠ .halt := by decide
theorem witness_ElapsedTimeAndPreviousAfterSample_none :
    start0.phase ≠ .halt ∧ nextIs (exec (.smp (.wires ⟨0, 0⟩)) start0) (fun t => decide (t.out = .none)) = true := by
  decide +kernel
theorem witness_ElapsedTimeAndPreviousAfterSample_ended :
    data1.phase ≠ .halt ∧ nextIs (exec (.smp (.wires ⟨0, 0⟩)) data1) (fun t => decide (t.out ≠ .none)) = true := by
  decide +kernel
theorem witness_PhaseTransitionTable (s : State) :
    (∃ t, exec .rst s = .next t) ∧ (∃ t, exec .cancel s = .next t) ∧ (∃ t, exec .idle s = .next t) ∧
    ∃ t, exec (.smp (.wires ⟨1, 0⟩)) s = .next t := ⟨⟨_, rfl⟩, ⟨_, rfl⟩, ⟨_, rfl⟩, ⟨_, rfl⟩⟩
theorem witness_PhaseTransitionTable_powerDrop :
    (data1.phase = .data ∧ sync1.phase = .sync) ∧ data1.cfg.abortOnPowerDrop = true ∧ sync1.cfg.abortOnPowerDrop = true ∧
    data1.cfg.sys.lt (pow data1.cfg.sys ⟨1 / 2, 1 / 2⟩) data1.cfg.squelch = true := by decide +kernel
theorem witness_ReportOnlyOfValidFullFrame :
    nextIs (exec (.smp (.inject (some 1))) dataFull)
      (fun t => decide (t.out = .report ⟨0, 0, 0, 0⟩ .unrecognized 0)) = true := by decide +kernel
theorem witness_SquelchOperation : start0.phase = .search ∧ sync1.discard.phase = .search := by decide
theorem witness_DemodulatorOperation_sync : sync1.phase = .sync ∨ sync1.phase = .data := .inl rfl
theorem witness_DemodulatorOperation_data : data10.phase = .sync ∨ data10.phase = .data := .inr rfl
theorem witness_QuarterAndHalfTurns : (⟨1, 0⟩ : Sample) ≠ ⟨0, 0⟩ := by decide
theorem witness_DiscriminatorMeaning :
    cfg.sys.lt 0 (1 / 2) = true ∧ ∃ d, demod cfg.sys ⟨0, 1⟩ ⟨1, 0⟩ = some d :=
  ⟨by decide +kernel, _, if_pos (by decide +kernel)⟩
theorem witness_SyncaccAccumulates : sync1.phase = .sync := rfl
theorem witness_ThresholdAndEntryToData_sync :
    sync1.phase = .sync ∨ (sync1.phase = .search ∧ sync1.cfg.threshMode ≠ .preamble) := by decide
theorem witness_ThresholdAndEntryToData_search :
    start0.phase = .sync ∨ (start0.phase = .search ∧ start0.cfg.threshMode ≠ .preamble) := by decide
theorem witness_SliceIsStrict : data10.phase = .data ∧ (0 : NUM) = data10.thresh := ⟨rfl, rfl⟩
/-- At the boundary: the run is empty. -/
theorem witness_RunLengthIsTruncatedQuotient : data10.phase = .data ∧ data10.tFlip ≤ 10 := by decide
theorem witness_RunByCapacity_past :
    data10.phase = .data ∧ 64 < ({ data10 with bitIdx := 63 } : State).bitIdx.toNat + (18 - data10.tFlip) / cfg.unitInterval := by
  decide
theorem witness_RunByCapacity_full :
    dataFull.phase = .data ∧ dataFull.bitIdx.toNat + (14 - dataFull.tFlip) / dataFull.cfg.unitInterval = 64 := by decide
theorem witness_RunByCapacity_below :
    dataFull.phase = .data ∧ dataFull.bitIdx.toNat + (13 - dataFull.tFlip) / dataFull.cfg.unitInterval = 63 := by decide
theorem witness_RunPlacesOldLevelOnly :
    let s := { data10 with lvl := true, bitIdx := 62 }
    s.phase = .data ∧ s.frame.wf = true ∧ (∀ j, s.bitIdx.toNat ≤ j → j < 64 → s.frame.bit j = false) ∧
    s.bitIdx.toNat + (14 - s.tFlip) / s.cfg.unitInterval = 63 :=
  ⟨rfl, rfl, fun _ _ _ => Nat.zero_testBit _, rfl⟩
/-- The bits 1, 0 at four samples a bit, the values not all the same on a side, one of them the threshold itself. -/
theorem witness_RecoversBitsBetweenTransitions :
    data10.phase = .data ∧ data10.lvl = false ∧ data10.bitIdx = 0 ∧ data10.frame = [] ∧ data10.tFlip = data10.et ∧
    2 ≤ 4 ∧ data10.cfg.unitInterval = 4 * data10.cfg.timeStep ∧
    OnSides data10.cfg.sys data10.thresh 4 [true, false] [1, 2, 1 / 2, 1, 0, -1, -2, -1] ∧
    [true, false].getLast? = some false ∧ data10.cfg.sys.lt data10.thresh 1 = !false ∧ [true, false].length ≤ 63 :=
  ⟨rfl, rfl, rfl, rfl, rfl, by decide, rfl,
    ⟨rfl, fun j hj => by have hj : j < 8 := hj; interval_cases j <;> decide +kernel⟩, rfl, by decide +kernel, by decide⟩
/-- At the boundary `k = 2`, a frame of zeros. -/
theorem witness_WholeFrameIsReportedOrRejected :
    let s := { data10 with cfg := { cfg with unitInterval := 2, unitInterval_pos := by decide } }
    s.phase = .data ∧ s.lvl = false ∧ s.bitIdx = 0 ∧ s.frame = [] ∧ s.tFlip = s.et ∧
    2 ≤ 2 ∧ s.cfg.unitInterval = 2 * s.cfg.timeStep ∧
    OnSides s.cfg.sys s.thresh 2 (([0, 0, 0, 0, 0, 0, 0, 0] : List Byte).flatMap bitsOfByte)
      (List.replicate 128 (-1)) ∧
    s.cfg.sys.lt s.thresh 1 = !(0 : Byte).getLsbD 0 :=
  ⟨rfl, rfl, rfl, rfl, rfl, by decide, rfl, by
    have h : ∀ j : Fin 128, cfg.sys.lt 0 ((List.replicate 128 (-1 : NUM)).getD j 0) =
        (([0, 0, 0, 0, 0, 0, 0, 0] : List Byte).flatMap bitsOfByte).getD (j / 2) false := by decide +kernel
    exact ⟨by decide +kernel, fun j hj => h ⟨j, hj⟩⟩, by decide +kernel⟩
theorem witness_SentinelThresholdNeverFlips :
    let s := { data10 with lvl := true, thresh := cfg.sys.neg cfg.sys.pi }
    s.phase = .data ∧ s.cfg.abortOnPowerDrop = false ∧ s.lvl = true ∧
    s.cfg.sys.le s.thresh (s.cfg.sys.neg s.cfg.sys.pi) = true :=
  ⟨rfl, rfl, rfl, decide_eq_true (le_refl _)⟩
theorem witness_PlaceSetsOneBit : data1.phase = .data ∧ 63 < 64 ∧ data1.frame.wf = true := by decide
theorem witness_PlaceBeyondFrameFails :
    64 ≤ 64 ∧ 63 ≤ 63 ∧ dataFull.phase = .data ∧
    dataFull.bitIdx.toNat + (18 - dataFull.tFlip) / dataFull.cfg.unitInterval = 65 := by decide
theorem witness_PackingLaw : (List.replicate 64 true).length = 64 ∧ 7 < 8 := by decide
theorem witness_OtherOperationsKeepTheFrame : ∃ t, exec .chk data1 = .next t := ⟨_, rfl⟩
theorem witness_ChecksumOperation : data10.phase = .data := rfl
theorem witness_ChecksumDetectsSingleBitErrors : 7 < 8 ∧ checksumValid 0x5D 0x98 0xF5 0xE5 0xCF = true := by decide
theorem witness_AddressBytesHaveNoEffect :
    data1.phase = .data ∧ data1.frame.wf = true ∧ Memory.wf [(0, 0x11), (2, 0x33)] = true ∧
    (∀ a, 3 ≤ a → Memory.read [(0, 0x11), (2, 0x33)] a = data1.frame.read a) ∧
    (∃ u, exec (.run 30 false) data1 = .next u) ∧
    ∃ u, exec (.run 30 false) { data1 with frame := [(0, 0x11), (2, 0x33)] } = .next u :=
  ⟨rfl, rfl, rfl, fun a h => by
    simp [Memory.read, data1, show a ≠ 0 by omega, show a ≠ 2 by omega], ⟨_, rfl⟩, ⟨_, rfl⟩⟩
theorem witness_DescrambleOperation : data1.phase = .data := rfl
theorem witness_ScrambleInvertsDescramble :
    (0xFD : Byte) &&& 0x02 = 0 ∧ (0xE0 : Byte) &&& 0x10 = 0 := by decide
theorem witness_ChoiceTable : data10.phase = .data := rfl
theorem witness_ButtonCodeRows :
    ((0xA : Nibble), Choice.E) ∈ [((0x1 : Nibble), Choice.A), (0x5, .B), (0xD, .C), (0xE, .D), (0xA, .E)] ∧
    (0xF : Nibble) ∈ [(0x0 : Nibble), 0x2, 0x3, 0x4, 0x6, 0x7, 0x8, 0x9, 0xB, 0xC, 0xF] := by decide
theorem witness_ChoiceRunsItsButtonCode : data10.phase = .data := rfl
theorem witness_ChoiceAndIdentifierAreIndependent :
    let s := { data10 with frame := [(3, 0x02), (5, 0x02), (6, 0x1F)] }
    let s' := { data10 with frame := [(6, 0x0F)] }
    s.phase = .data ∧ s'.phase = .data ∧ (s.frame.read 6).extractLsb' 0 4 = (s'.frame.read 6).extractLsb' 0 4 ∧
    s.frame.read 3 &&& 0xFD = s'.frame.read 3 &&& 0xFD ∧ s.frame.read 4 = s'.frame.read 4 ∧
    s.frame.read 5 &&& 0xFD = s'.frame.read 5 &&& 0xFD ∧ s.frame.read 6 &&& 0xE0 = s'.frame.read 6 &&& 0xE0 ∧
    (∃ t, exec .choice s = .next t) ∧ (∃ t, exec .choice s' = .next t) ∧
    (∃ t, exec .descr s = .next t) ∧ ∃ t, exec .descr s' = .next t :=
  ⟨rfl, rfl, rfl, rfl, rfl, rfl, rfl, ⟨_, rfl⟩, ⟨_, rfl⟩, ⟨_, rfl⟩, ⟨_, rfl⟩⟩

end Sys2Proof.Tests
end

section
/-! SUPPORT. `SYNCACC` and `SLICE` executed by themselves (rules R150 and R154). -/

namespace Sys2Proof.Machine

/-! ### `SYNCACC` -/

/-- A valid value is taken into the range, and only `DMIN` and `DMAX` are written. -/
@[simp] theorem State.accumulate_some (s : State) (d : NUM) :
    s.accumulate (some d) = { s with dmin := s.cfg.sys.min s.dmin d, dmax := s.cfg.sys.max s.dmax d } := rfl

/-- An invalid value is excluded: writing `DMIN` and `DMAX` back leaves the whole state as it is. -/
@[simp] theorem State.accumulate_none (s : State) : s.accumulate none = s := rfl

theorem exec_syncacc (disc : Option NUM) (s : State) : exec (.syncacc disc) s = execSyncacc disc s := rfl

theorem exec_syncacc_of_sync {s : State} (hsync : s.phase = .sync) (disc : Option NUM) :
    exec (.syncacc disc) s = .next (s.accumulate disc) := by
  rw [exec_syncacc, execSyncacc, State.whenSelected_eq, State.selects_syncacc, decide_eq_true hsync, if_pos rfl]

/-! ### `SLICE` -/

theorem exec_slice (d : NUM) (s : State) : exec (.slice d) s = execSlice d s := rfl

/-- `SLICE` leaves the level as a transient and writes no register. -/
theorem exec_slice_of_data {s : State} (hdata : s.phase = .data) (d : NUM) :
    exec (.slice d) s = .next (s.setWires { s.wires with level := sliceLevel s.cfg.sys d s.thresh }) := by
  rw [exec_slice, execSlice, State.whenSelected_eq, State.selects_slice, decide_eq_true hdata, if_pos rfl]

/-- In an admitted number system no value lies strictly above itself: at equality the level is false. -/
theorem sliceLevel_self {N : NumSystem} (hN : N.Admitted) (d : NUM) : sliceLevel N d d = false := by
  obtain ⟨K, _, _, _, val, hexact, -⟩ := hN
  have hnot : ¬ N.lt d d = true := fun hlt => lt_irrefl (val d) ((hexact.lt_iff d d).mp hlt)
  rw [hexact.sliceLevel_eq]
  exact Bool.eq_false_iff.mpr hnot

/-! ### The statements -/

/-- Settles O36, by whether the value is valid. -/
theorem syncaccAccumulates : Obligations.SyncaccAccumulates := by
  intro disc s hsync
  rw [exec_syncacc_of_sync hsync]
  cases disc with
  | none => rw [State.accumulate_none]
  | some d => rw [State.accumulate_some]

/-- Settles O38: the level is the strict comparison by the definition of `SLICE`, and false at equality because the
number system of every configuration is an exact one. -/
theorem sliceIsStrict : Obligations.SliceIsStrict := by
  intro d s hdata
  rw [exec_slice_of_data hdata]
  refine ⟨rfl, fun heq => ?_⟩
  rw [heq, sliceLevel_self s.cfg.sys_admitted]
  rfl

end Sys2Proof.Machine
end

section
/-! SUPPORT. `PLACE` executed by itself inside the frame (rule R180). -/

namespace Sys2Proof.Machine

/-! ### The byte of the placed bit -/

/-- A false bit writes nothing. -/
@[simp] theorem Memory.placeBit_false (m : Memory) (k : Nat) : m.placeBit k false = m := rfl

/-- A true bit is one read-modify-write of the byte that holds it. -/
theorem Memory.placeBit_true (m : Memory) (k : Nat) :
    m.placeBit k true = m.put (k / 8) (m.read (k / 8) ||| bitMask k) := rfl

/-- The byte that holds the placed bit; `Memory.read_placeBit_of_ne` is about the others. -/
theorem Memory.read_placeBit_same {m : Memory} (hm : m.wf = true) (k : Nat) (b : Bool) :
    (m.placeBit k b).read (k / 8) = if b then m.read (k / 8) ||| bitMask k else m.read (k / 8) := by
  cases b with
  | false => simp
  | true => rw [Memory.placeBit_true, Memory.read_put hm, if_pos rfl, if_pos rfl]

/-! ### `PLACE` -/

theorem exec_place (k : Nat) (b : Bool) (s : State) : exec (.place k b) s = execPlace k b s := rfl

/-- Inside the frame in `DATA`, `PLACE` writes the frame store and no register. -/
theorem exec_place_of_data {s : State} (hdata : s.phase = .data) {k : Nat} (hk : k < 64) (b : Bool) :
    exec (.place k b) s = .next { s with frame := s.frame.placeBit k b } := by
  rw [exec_place, execPlace_eq hk, if_pos hdata]

/-! ### The statement -/

/-- Settles O45: the next state is the old one with the bit placed in its frame, so the bytes are those of
`Memory.placeBit`, and for a false bit the whole state is the old one. -/
theorem placeSetsOneBit : Obligations.PlaceSetsOneBit := by
  intro k b s hdata hk hwf
  refine ⟨_, exec_place_of_data hdata hk b, rfl, ?byte, ?others, ?falseBit⟩
  case byte => exact Memory.read_placeBit_same hwf k b
  case others => exact fun a ha => Memory.read_placeBit_of_ne hwf ha b
  case falseBit => rintro rfl; rw [Memory.placeBit_false]

end Sys2Proof.Machine
end

section
/-! SUPPORT. `IDLE` events leave no trace in a run (rule R227): a step reads only the registers of the state it starts
from, and an `IDLE` step keeps them. -/

namespace Sys2Proof.Machine

/-! ### A step reads only the registers -/

/-- What the last step drove and what was still to come do not matter to the step that takes a given line. -/
theorem stepOn_registers (ℓ : Line) (s : State) : stepOn ℓ s.registers = stepOn ℓ s := rfl

theorem stepOn_congr {s t : State} (hreg : t.registers = s.registers) (ℓ : Line) : stepOn ℓ t = stepOn ℓ s := by
  rw [← stepOn_registers ℓ t, hreg, stepOn_registers]

/-- An `IDLE` line keeps the registers and outputs `NONE`. -/
theorem stepOn_idle {ℓ : Line} (hidle : decode ℓ = .ok .idle) (s : State) : stepOn ℓ s = .next s.registers := by
  rw [stepOn, step_cons rfl, hidle]
  rfl

@[simp] theorem State.registers_out (s : State) : s.registers.out = .none := rfl
@[simp] theorem State.registers_registers (s : State) : s.registers.registers = s.registers := rfl

/-! ### Runs -/

/-- A run on a line and more is the step on that line, then the run on the others. -/
theorem feed_cons_eq_some {ℓ : Line} {rest : List Line} {s s' : State} {outs : List OutEvent} :
    feed (ℓ :: rest) s = some (s', outs) ↔
      ∃ u outsRest, stepOn ℓ s = .next u ∧ feed rest u = some (s', outsRest) ∧ outs = u.out :: outsRest := by
  cases hstep : stepOn ℓ s with
  | next u => simp [feed, hstep, eq_comm]
  | fault f => simp [feed, hstep]
  | refused r => simp [feed, hstep]

/-- The lines of a stimulus that are not `IDLE` events. -/
def withoutIdle (ls : List Line) : List Line := ls.filter fun ℓ => decide (decode ℓ ≠ .ok .idle)

/-- The output events that are not `NONE`. -/
def withoutNone (outs : List OutEvent) : List OutEvent := outs.filter fun e => decide (e ≠ .none)

theorem withoutIdle_cons_idle {ℓ : Line} (hidle : decode ℓ = .ok .idle) (ls : List Line) :
    withoutIdle (ℓ :: ls) = withoutIdle ls := by
  simp [withoutIdle, hidle]

theorem withoutIdle_cons_other {ℓ : Line} (hother : decode ℓ ≠ .ok .idle) (ls : List Line) :
    withoutIdle (ℓ :: ls) = ℓ :: withoutIdle ls := by
  simp [withoutIdle, hother]

theorem withoutNone_cons_none (outs : List OutEvent) : withoutNone (.none :: outs) = withoutNone outs := rfl

theorem withoutNone_cons_congr (e : OutEvent) {outs outs' : List OutEvent}
    (h : withoutNone outs = withoutNone outs') : withoutNone (e :: outs) = withoutNone (e :: outs') := by
  simp only [withoutNone, List.filter_cons] at h ⊢
  rw [h]

/-- The run without the `IDLE` lines follows the whole run, from any state with the same registers. The registers are
all that the two runs share: after an `IDLE` line one of them has the port at `NONE`, the other the event before it. -/
theorem feed_withoutIdle {ls : List Line} {s t s' : State} {outs : List OutEvent} (hreg : t.registers = s.registers)
    (hfeed : feed ls s = some (s', outs)) :
    ∃ t' outs', feed (withoutIdle ls) t = some (t', outs') ∧ withoutNone outs = withoutNone outs' ∧
      t'.registers = s'.registers := by
  induction ls generalizing s t outs with
  | nil =>
    cases hfeed
    exact ⟨t, [], rfl, rfl, hreg⟩
  | cons ℓ rest ih =>
    obtain ⟨u, outsRest, hstep, hrest, rfl⟩ := feed_cons_eq_some.mp hfeed
    by_cases hidle : decode ℓ = .ok .idle
    · rw [stepOn_idle hidle] at hstep
      cases hstep
      rw [withoutIdle_cons_idle hidle, s.registers_out, withoutNone_cons_none]
      exact ih (hreg.trans s.registers_registers.symm) hrest
    · obtain ⟨t', outs', htail, houts, hreg'⟩ := ih rfl hrest
      rw [withoutIdle_cons_other hidle]
      exact ⟨t', u.out :: outs', feed_cons_eq_some.mpr ⟨u, outs', (stepOn_congr hreg ℓ).trans hstep, htail, rfl⟩,
        withoutNone_cons_congr u.out houts, hreg'⟩

/-! ### The statement -/

theorem exec_idle (s : State) : exec .idle s = .next s.openStep := rfl

/-- Settles O16: the run without the `IDLE` events, started from the state itself. -/
theorem idleEventsCanBeRemoved : Obligations.IdleEventsCanBeRemoved :=
  ⟨exec_idle, fun _ _ _ _ hfeed => feed_withoutIdle rfl hfeed⟩

end Sys2Proof.Machine
end

section
/-! SUPPORT. What executing each operation is, where its phase code selects it: one equation per operation, for the
statements about single operations and about whole steps; and what of the state no operation writes. -/

namespace Sys2Proof.Machine

/-! ### The operations with a line of their own -/

theorem exec_rst (s : State) : exec .rst s = .next s.openStep.discard := rfl

theorem exec_cancel_of_ne_halt {s : State} (h : s.phase ≠ .halt) : exec .cancel s = .next s.openStep.cancelled :=
  congrArg Host.Outcome.next (if_neg h)

theorem exec_cancel_of_halt {s : State} (h : s.phase = .halt) : exec .cancel s = .next s.openStep :=
  congrArg Host.Outcome.next (if_pos h)

theorem exec_smp_wires (x : Sample) (s : State) : exec (.smp (.wires x)) s = .next (s.sample x) := rfl

theorem exec_smp_inject (disc : Option NUM) (s : State) : exec (.smp (.inject disc)) s = s.injectSample disc := rfl

theorem exec_eos (s : State) : exec .eos s = .next s := rfl

/-! ### The micro-operations -/

theorem exec_scan_of_ne_halt {s : State} (h : s.phase ≠ .halt) (x : Sample) :
    exec (.scan x) s = .next ((s.scan x).setWires { s.wires with x := x }) := by
  simp [exec, execScan, State.selects_scan, h]

theorem exec_sql_of_search {s : State} (h : s.phase = .search) (x : Sample) (t : Nat) :
    exec (.sql x t) s = .next
      (if trig s.cfg x then
        (s.setWires { s.wires with x := x, p := pow s.cfg.sys x, trig := trig s.cfg x }).sqlTrigger t
      else s.setWires { s.wires with x := x, p := pow s.cfg.sys x, trig := trig s.cfg x }) := by
  simp [exec, execSql, State.selects_sql, h]

theorem exec_demod_of_attempt {s : State} (h : s.phase = .sync ∨ s.phase = .data) (x : Sample) :
    exec (.demod x) s = .next (s.setWires { s.wires with
      x := x, re := crossRe s.cfg.sys x s.prev, im := crossIm s.cfg.sys x s.prev,
      disc := demod s.cfg.sys x s.prev }) := by
  simp [exec, execDemod, State.selects_demod, h]

theorem exec_thr_of_entry {s : State} (h : s.phase = .sync ∨ s.phase = .search ∧ s.cfg.threshMode ≠ .preamble)
    (lo hi : NUM) : exec (.thr lo hi) s = .next (s.setThresh (thr s.cfg lo hi)) := by
  simp [exec, execThr, State.selects_thr, h]

theorem exec_enterdata_of_entry {s : State} (h : s.phase = .sync ∨ s.phase = .search ∧ s.cfg.threshMode ≠ .preamble)
    (t : Nat) : exec (.enterdata t) s = .next (s.enterData t) := by
  simp [exec, execEnterdata, State.selects_enterdata, h]

theorem exec_run_of_data {s : State} (h : s.phase = .data) (t : Nat) (level : Bool) :
    exec (.run t level) s = .next
      ((s.setWires { s.wires with level := level, n := runLength s.cfg t s.tFlip }).run t level) := by
  simp [exec, execRun, State.selects_run, h]

theorem exec_place_beyond {k : Nat} (hk : 64 ≤ k) (b : Bool) (s : State) :
    exec (.place k b) s = .next (s.drive (.framingFail .overflow)) := by
  rw [exec_place]
  exact if_pos hk

theorem exec_chk_of_data {s : State} (h : s.phase = .data) :
    exec .chk s = .next (s.setWires { s.wires with valid := s.frame.chk }) := by
  simp [exec, execChk, State.selects_chk, h]

theorem exec_descr_of_data {s : State} (h : s.phase = .data) :
    exec .descr s = .next (s.setWires { s.wires with
      in0 := s.frame.in0, in1 := s.frame.in1, in2 := s.frame.in2, in3 := s.frame.in3, id := s.frame.descr }) := by
  simp [exec, execDescr, State.selects_descr, h]

theorem exec_choice_of_data {s : State} (h : s.phase = .data) :
    exec .choice s = .next (s.mapNibble s.frame.nib (choiceOf s.frame.nib)) := by
  simp [exec, execChoice, State.selects_choice, h]

theorem exec_report_of_data {s : State} (h : s.phase = .data) (id : Ident) (c : Choice) (nib : Nibble) :
    exec (.report id c nib) s = .next (s.drive (.report id c nib)) := by
  simp [exec, execReport, State.selects_report, h]

theorem exec_discard_of_attempt {s : State} (h : s.phase = .sync ∨ s.phase = .data) :
    exec .discard s = .next s.discard := by
  simp [exec, execDiscard, State.selects_discard, h]

/-- A micro-operation with well-formed operands does nothing where the phase code does not select it (log entry 7). -/
theorem exec_of_not_selected {i : Instr} {u : Uop} {s : State} (huop : i.uop = some u) (hwf : i.WellFormed = true)
    (hsel : s.selects u = false) : exec i s = .next s := by
  cases i with
  | place k b =>
    cases huop
    have hdata : s.phase ≠ .data := by simpa [State.selects_place] using hsel
    rw [exec_place, execPlace_eq (of_decide_eq_true hwf), if_neg hdata]
  | scan | sql | demod | syncacc | thr | enterdata | slice | run | chk | descr | choice | report | discard =>
    cases huop
    exact congrArg Host.Outcome.next (if_neg (by simp [hsel]))
  | _ => cases huop

end Sys2Proof.Machine
end

section
/-! SUPPORT. What no operation writes: the constants and the stimulus; and which operations write no register. -/

namespace Sys2Proof.Machine

/-! ### The constants and the stimulus -/

/-- What the environment owns of a state: the configuration constants and the lines still to come. -/
def State.SameEnvironment (t s : State) : Prop := t.cfg = s.cfg ∧ t.stimulus = s.stimulus

theorem State.SameEnvironment.trans {s t u : State} (hut : u.SameEnvironment t) (hts : t.SameEnvironment s) :
    u.SameEnvironment s :=
  ⟨hut.1.trans hts.1, hut.2.trans hts.2⟩

theorem State.run_environment (s : State) (t : Nat) (level : Bool) : (s.run t level).SameEnvironment s := by
  rcases s.run_raise_or_emit t level with ⟨e, -, h⟩ | ⟨-, h⟩ <;> rw [h] <;> exact ⟨rfl, rfl⟩

theorem State.dataSample_environment (s : State) (t : Nat) (disc : Option NUM) :
    (s.dataSample t disc).SameEnvironment s := by
  rcases s.dataSample_cases t disc with h | ⟨d, -, -, h⟩ <;> rw [h]
  · exact ⟨rfl, rfl⟩
  · exact s.run_environment t _

theorem State.syncSample_environment (s : State) (t : Nat) (disc : Option NUM) :
    (s.syncSample t disc).SameEnvironment s := by
  rcases s.syncSample_cases t disc with ⟨-, h⟩ | ⟨-, h⟩ <;> rw [h] <;> exact ⟨rfl, rfl⟩

theorem State.sqlTrigger_environment (s : State) (t : Nat) : (s.sqlTrigger t).SameEnvironment s := by
  unfold State.sqlTrigger; split <;> exact ⟨rfl, rfl⟩

theorem State.trigger_environment (s : State) (t : Nat) : (s.trigger t).SameEnvironment s := by
  rw [State.trigger_eq]; split <;> exact ⟨rfl, rfl⟩

theorem State.sample_environment (s : State) (x : Sample) : (s.sample x).SameEnvironment s := by
  cases hp : s.phase with
  | halt => rw [State.sample_halt hp]; exact ⟨rfl, rfl⟩
  | search =>
    rw [State.sample_search hp]
    split
    · exact (State.trigger_environment _ _).trans ⟨rfl, rfl⟩
    · exact ⟨rfl, rfl⟩
  | sync =>
    rw [State.sample_sync hp]
    split
    · exact ⟨rfl, rfl⟩
    · exact (State.syncSample_environment _ _ _).trans ⟨rfl, rfl⟩
  | data =>
    rw [State.sample_data hp]
    split
    · exact ⟨rfl, rfl⟩
    · exact (State.dataSample_environment _ _ _).trans ⟨rfl, rfl⟩

/-- A test-point line that is not refused is the work of `SYNC` or of `DATA`, with `PREV` and the power left out. -/
theorem State.injectSample_next {s t : State} {disc : Option NUM} (h : s.injectSample disc = .next t) :
    (s.phase = .sync ∧ t = s.openStep.tick.syncSample s.now disc) ∨
    (s.phase = .data ∧ t = s.openStep.tick.dataSample s.now disc) := by
  cases hp : s.phase with
  | sync => rw [State.injectSample_sync hp] at h; cases h; exact .inl ⟨rfl, rfl⟩
  | data => rw [State.injectSample_data hp] at h; cases h; exact .inr ⟨rfl, rfl⟩
  | search => rw [State.injectSample_refused (.inl hp)] at h; cases h
  | halt => rw [State.injectSample_refused (.inr hp)] at h; cases h

theorem exec_smp_environment {x : SmpOperand} {s t : State} (h : exec (.smp x) s = .next t) : t.SameEnvironment s := by
  cases x with
  | wires x => cases h; exact s.sample_environment x
  | inject disc =>
    rcases State.injectSample_next h with ⟨-, rfl⟩ | ⟨-, rfl⟩
    · exact (State.syncSample_environment _ _ _).trans ⟨rfl, rfl⟩
    · exact (State.dataSample_environment _ _ _).trans ⟨rfl, rfl⟩

theorem execPlace_environment {k : Nat} {b : Bool} {s t : State} (h : execPlace k b s = .next t) :
    t.SameEnvironment s := by
  by_cases hk : k < 64
  · rw [execPlace_eq hk] at h
    cases h
    split <;> exact ⟨rfl, rfl⟩
  · cases (exec_place_beyond (Nat.le_of_not_lt hk) b s).symm.trans h
    exact ⟨rfl, rfl⟩

/-- No operation writes a constant, and none takes a line off the stimulus (rules R7, R35). -/
theorem exec_environment {i : Instr} {s t : State} (h : exec i s = .next t) : t.SameEnvironment s := by
  cases i with
  | smp x => exact exec_smp_environment h
  | place k b => exact execPlace_environment h
  | cancel => cases h; split <;> exact ⟨rfl, rfl⟩
  | run t level =>
    cases h
    split
    · exact (State.run_environment _ _ _).trans ⟨rfl, rfl⟩
    · exact ⟨rfl, rfl⟩
  | sql x t =>
    cases h
    split
    · dsimp only
      split
      · exact (State.sqlTrigger_environment _ _).trans ⟨rfl, rfl⟩
      · exact ⟨rfl, rfl⟩
    · exact ⟨rfl, rfl⟩
  | scan | demod | syncacc | thr | enterdata | slice | chk | descr | choice | report | discard =>
    cases h
    split <;> exact ⟨rfl, rfl⟩
  | _ => cases h; exact ⟨rfl, rfl⟩

/-- Settles O4: at the end of the stimulus nothing is taken and nothing written; elsewhere the line is taken by the
fetch, and the operation keeps what the environment owns. -/
theorem stepTakesOneLineAndKeepsConfiguration : Obligations.StepTakesOneLineAndKeepsConfiguration := by
  intro s s' hstep
  rcases step_next_cases hstep with ⟨hnil, rfl⟩ | ⟨ℓ, rest, i, u, hcons, -, hexec, rfl⟩
  · exact ⟨rfl, by rw [hnil, List.tail_nil]⟩
  · obtain ⟨hcfg, hstim⟩ := exec_environment hexec
    exact ⟨hcfg, by rw [hcons]; exact hstim⟩

/-! ### Operations that write no register -/

/-- A line's operation other than `RST`, `CANCEL` and `SMP` writes no register. -/
theorem exec_registers_of_uop_none {i : Instr} {s t : State} (huop : i.uop = none) (hrst : i ≠ .rst)
    (hcancel : i ≠ .cancel) (hsmp : ∀ x, i ≠ .smp x) (h : exec i s = .next t) : t.registers = s.registers := by
  cases i with
  | rst => exact absurd rfl hrst
  | cancel => exact absurd rfl hcancel
  | smp x => exact absurd rfl (hsmp x)
  | scan | sql | demod | syncacc | thr | enterdata | slice | run | place | chk | descr | choice | report | discard =>
    cases huop
  | _ => cases h; rfl

/-- A micro-operation in `HALT` writes no register: no phase code selects it, and `PLACE` past the frame only drives the
port. -/
theorem exec_uop_registers_of_halt {i : Instr} {u : Uop} {s t : State} (huop : i.uop = some u) (hhalt : s.phase = .halt)
    (h : exec i s = .next t) : t.registers = s.registers := by
  by_cases hwf : i.WellFormed = true
  · rw [exec_of_not_selected huop hwf (s.selects_halt hhalt u)] at h
    cases h; rfl
  · cases i with
    | place k b =>
      have hk : 64 ≤ k := by simpa [Instr.WellFormed] using hwf
      rw [exec_place_beyond hk] at h
      cases h; rfl
    | nibUnrecognized n => cases huop
    | _ => exact absurd rfl hwf

theorem exec_smp_registers_of_halt {x : SmpOperand} {s t : State} (hhalt : s.phase = .halt)
    (h : exec (.smp x) s = .next t) : t.registers = s.registers := by
  cases x with
  | wires x => rw [exec_smp_wires, State.sample_halt hhalt] at h; cases h; rfl
  | inject disc => rw [exec_smp_inject, State.injectSample_refused (.inr hhalt)] at h; cases h

/-- Settles O15: by whether the operation is a micro-operation; `CANCEL` and the sample step each ignore `HALT`. -/
theorem haltIsLeftOnlyByReset : Obligations.HaltIsLeftOnlyByReset := by
  intro i s t hhalt hexec hrst
  cases huop : i.uop with
  | some u => exact exec_uop_registers_of_halt huop hhalt hexec
  | none =>
    by_cases hcancel : i = .cancel
    · rw [hcancel, exec_cancel_of_halt hhalt] at hexec
      cases hexec; rfl
    · by_cases hsmp : ∃ x, i = .smp x
      · obtain ⟨x, rfl⟩ := hsmp
        exact exec_smp_registers_of_halt hhalt hexec
      · exact exec_registers_of_uop_none huop hrst hcancel (not_exists.mp hsmp) hexec

/-! ### Operations that keep the frame -/

theorem State.sqlTrigger_frame (s : State) (t : Nat) : (s.sqlTrigger t).frame = s.frame := by
  unfold State.sqlTrigger; split <;> rfl

/-- The operations of rule R66 and the attempt reset: the only ones that write the frame store. -/
theorem exec_frame_of_other {i : Instr} {s t : State} (h : exec i s = .next t) (hrst : i ≠ .rst) (hcancel : i ≠ .cancel)
    (hsmp : ∀ x, i ≠ .smp x) (hrun : ∀ u l, i ≠ .run u l) (hplace : ∀ k b, i ≠ .place k b) (hdiscard : i ≠ .discard) :
    t.frame = s.frame := by
  cases i with
  | rst => exact absurd rfl hrst
  | cancel => exact absurd rfl hcancel
  | smp x => exact absurd rfl (hsmp x)
  | run t level => exact absurd rfl (hrun t level)
  | place k b => exact absurd rfl (hplace k b)
  | discard => exact absurd rfl hdiscard
  | sql x t =>
    cases h
    split
    · dsimp only
      split
      · exact State.sqlTrigger_frame _ _
      · rfl
    · rfl
  | scan | demod | syncacc | thr | enterdata | slice | chk | descr | choice | report =>
    cases h
    split <;> rfl
  | _ => cases h; rfl

/-- Settles O48: the frame store itself is as before, so every byte is. -/
theorem otherOperationsKeepTheFrame : Obligations.OtherOperationsKeepTheFrame := by
  intro i s t hexec hrst hcancel hsmp hrun hplace hdiscard a
  rw [exec_frame_of_other hexec hrst hcancel hsmp hrun hplace hdiscard]

end Sys2Proof.Machine
end

section
/-! SUPPORT. The formats: the decoder of each against its encoder (`spec/30_encoding.md`). -/

namespace Sys2Proof

/-! ### Format IN -/

/-- The control word by priority (rule R83): `rst` over `cancel` over `in_valid`. -/
theorem decodeIn_ofBool (rst cancel inValid : Bool) (x : Sample) :
    decodeIn (BitVec.ofBool rst ++ BitVec.ofBool cancel ++ BitVec.ofBool inValid) x =
      if rst then .rst else if cancel then .cancel else if inValid then .smp (.wires x) else .idle := by
  cases rst <;> cases cancel <;> cases inValid <;> rfl

/-- Every control word is the one of its three wires. -/
theorem controlWord_eq_ofBool (c : ControlWord) :
    c = BitVec.ofBool (c.getLsbD 2) ++ BitVec.ofBool (c.getLsbD 1) ++ BitVec.ofBool (c.getLsbD 0) := by
  revert c; decide

theorem decodeIn_cases (c : ControlWord) (x : Sample) :
    decodeIn c x = .rst ∨ decodeIn c x = .cancel ∨ decodeIn c x = .smp (.wires x) ∨ decodeIn c x = .idle := by
  rw [controlWord_eq_ofBool c, decodeIn_ofBool]
  split
  · exact .inl rfl
  · split
    · exact .inr (.inl rfl)
    · split
      · exact .inr (.inr (.inl rfl))
      · exact .inr (.inr (.inr rfl))

/-! ### Format NIB -/

/-- A button code decodes to its row, or to `NIB_UNRECOGNIZED` of itself (rules R91, R92). -/
theorem decodeNib_cases (n : Nibble) :
    (n = 0x1 ∧ decodeNib n = .nibA) ∨ (n = 0x5 ∧ decodeNib n = .nibB) ∨ (n = 0xD ∧ decodeNib n = .nibC) ∨
    (n = 0xE ∧ decodeNib n = .nibD) ∨ (n = 0xA ∧ decodeNib n = .nibE) ∨
    (mappedCodes.contains n = false ∧ decodeNib n = .nibUnrecognized n) := by
  revert n; decide

theorem decodeNib_of_unmapped {n : Nibble} (h : (Instr.nibUnrecognized n).WellFormed = true) :
    decodeNib n = .nibUnrecognized n := by
  revert n; decide

/-! ### Formats FRAME and PERM -/

theorem decodeFrame_append (addr : BitVec 24) (in0 in1 in2 : Byte) (in3hi nib : Nibble) (csum : Byte) :
    decodeFrame (addr ++ in0 ++ in1 ++ in2 ++ in3hi ++ nib ++ csum) = .frame addr in0 in1 in2 in3hi nib csum := by
  simp [decodeFrame, BitVec.extractLsb'_append_eq_of_le, BitVec.extractLsb'_append_eq_right, -Nat.reduceAdd]

/-- The fields of a frame word, joined, are the word. -/
theorem encode_decodeFrame (w : BitVec 64) : encode (decodeFrame w) = some (.frame w) := by
  simp only [decodeFrame, encode, Option.some.injEq, Line.frame.injEq]
  rw [BitVec.extractLsb'_append_extractLsb'_eq_extractLsb' (rfl : 40 = 32 + 8),
    BitVec.extractLsb'_append_extractLsb'_eq_extractLsb' (rfl : 32 = 24 + 8),
    BitVec.extractLsb'_append_extractLsb'_eq_extractLsb' (rfl : 24 = 16 + 8),
    BitVec.extractLsb'_append_extractLsb'_eq_extractLsb' (rfl : 16 = 12 + 4),
    BitVec.extractLsb'_append_extractLsb'_eq_extractLsb' (rfl : 12 = 8 + 4),
    BitVec.extractLsb'_append_extractLsb'_eq_extractLsb' (rfl : 8 = 0 + 8)]
  exact BitVec.extractLsb'_eq_self

theorem decodePerm_append (in0 in1 in2 in3 : Byte) :
    decodePerm (in0 ++ in1 ++ in2 ++ in3) = .perm in0 in1 in2 in3 := by
  simp [decodePerm, BitVec.extractLsb'_append_eq_of_le, BitVec.extractLsb'_append_eq_right, -Nat.reduceAdd]

/-- The four bytes of a 32-bit word, joined, are the word. -/
theorem bytes_append_eq (w : BitVec 32) :
    w.extractLsb' 24 8 ++ w.extractLsb' 16 8 ++ w.extractLsb' 8 8 ++ w.extractLsb' 0 8 = w := by
  rw [BitVec.extractLsb'_append_extractLsb'_eq_extractLsb' (rfl : 24 = 16 + 8),
    BitVec.extractLsb'_append_extractLsb'_eq_extractLsb' (rfl : 16 = 8 + 8),
    BitVec.extractLsb'_append_extractLsb'_eq_extractLsb' (rfl : 8 = 0 + 8)]
  exact BitVec.extractLsb'_eq_self

theorem encode_decodePerm (w : BitVec 32) : encode (decodePerm w) = some (.perm w) := by
  rw [decodePerm, encode, bytes_append_eq]

/-! ### Format OUT -/

theorem Ident.ofWord_word (id : Ident) : Ident.ofWord id.word = id := by
  simp [Ident.ofWord, Ident.word, BitVec.extractLsb'_append_eq_of_le, BitVec.extractLsb'_append_eq_right, -Nat.reduceAdd]

theorem Ident.word_ofWord (w : BitVec 32) : (Ident.ofWord w).word = w := bytes_append_eq w

theorem Choice.ofCode_code (c : Choice) : Choice.ofCode c.code = some c := by
  cases c <;> rfl

theorem Choice.code_of_ofCode {code : BitVec 3} {c : Choice} (h : Choice.ofCode code = some c) : c.code = code := by
  unfold Choice.ofCode at h
  have hbeq := List.find?_some h
  exact eq_of_beq hbeq

section outWord

variable (kind : BitVec 2) (cause : BitVec 1) (id : BitVec 32) (choice : BitVec 3) (nib : Nibble)

theorem outWord_kind : (outWord kind cause id choice nib).extractLsb' 40 2 = kind := by
  simp [outWord, BitVec.extractLsb'_append_eq_of_le, -Nat.reduceAdd]

theorem outWord_cause : (outWord kind cause id choice nib).extractLsb' 39 1 = cause := by
  simp [outWord, BitVec.extractLsb'_append_eq_of_le, BitVec.extractLsb'_append_eq_right, -Nat.reduceAdd]

theorem outWord_id : (outWord kind cause id choice nib).extractLsb' 7 32 = id := by
  simp [outWord, BitVec.extractLsb'_append_eq_of_le, BitVec.extractLsb'_append_eq_right, -Nat.reduceAdd]

theorem outWord_choice : (outWord kind cause id choice nib).extractLsb' 4 3 = choice := by
  simp [outWord, BitVec.extractLsb'_append_eq_of_le, BitVec.extractLsb'_append_eq_right, -Nat.reduceAdd]

theorem outWord_nib : (outWord kind cause id choice nib).extractLsb' 0 4 = nib := by
  simp [outWord, BitVec.extractLsb'_append_eq_right, -Nat.reduceAdd]

end outWord

/-- The five fields of an output word, joined, are the word. -/
theorem outWord_fields (w : BitVec 42) :
    outWord (w.extractLsb' 40 2) (w.extractLsb' 39 1) (w.extractLsb' 7 32) (w.extractLsb' 4 3) (w.extractLsb' 0 4) = w := by
  rw [outWord, BitVec.extractLsb'_append_extractLsb'_eq_extractLsb' (rfl : 40 = 39 + 1),
    BitVec.extractLsb'_append_extractLsb'_eq_extractLsb' (rfl : 39 = 7 + 32),
    BitVec.extractLsb'_append_extractLsb'_eq_extractLsb' (rfl : 7 = 4 + 3),
    BitVec.extractLsb'_append_extractLsb'_eq_extractLsb' (rfl : 4 = 0 + 4)]
  exact BitVec.extractLsb'_eq_self

/-- A field inside a field that is 0 is 0. -/
theorem extractLsb'_eq_zero_of_low {w len : Nat} {x : BitVec w} (h : x.extractLsb' 0 len = 0) {start len' : Nat}
    (hle : start + len' ≤ len) : x.extractLsb' start len' = 0 := by
  have hsub : x.extractLsb' start len' = (x.extractLsb' 0 len).extractLsb' start len' := by
    ext i hi
    simp [show start + i < len by omega]
  rw [hsub, h]
  simp

/-! The word of an output event tells the event (rules R85, R86, R93). -/

theorem decodeOut_outNone : decodeOut (outWord 0 0 0 0 0) = .ok .outNone := by decide

theorem decodeOut_outReport (id : Ident) (c : Choice) (nib : Nibble) :
    decodeOut (outWord 1 0 id.word c.code nib) = .ok (.outReport id c nib) := by
  simp [decodeOut, outWord_kind, outWord_cause, outWord_id, outWord_choice, outWord_nib, Choice.ofCode_code,
    Ident.ofWord_word]

theorem decodeOut_outFramingFail (cause : Cause) :
    decodeOut (outWord 2 cause.code 0 0 0) = .ok (.outFramingFail cause) := by
  cases cause <;> decide

theorem decodeOut_outChecksumFail : decodeOut (outWord 3 0 0 0 0) = .ok .outChecksumFail := by decide

/-- A word with the 39 wires below `out_cause` 0 is the one of its kind and cause alone. -/
theorem outWord_of_low_zero {w : BitVec 42} (h : w.extractLsb' 0 39 = 0) :
    outWord (w.extractLsb' 40 2) (w.extractLsb' 39 1) 0 0 0 = w := by
  conv_rhs => rw [← outWord_fields w]
  rw [extractLsb'_eq_zero_of_low h (by decide : 7 + 32 ≤ 39), extractLsb'_eq_zero_of_low h (by decide : 4 + 3 ≤ 39),
    extractLsb'_eq_zero_of_low h (by decide : 0 + 4 ≤ 39)]

/-- A word with the 40 wires below `out_kind` 0 is the one of its kind alone. -/
theorem outWord_of_payload_zero {w : BitVec 42} (h : w.extractLsb' 0 40 = 0) :
    outWord (w.extractLsb' 40 2) 0 0 0 0 = w := by
  have hlow := outWord_of_low_zero (extractLsb'_eq_zero_of_low h (by decide : 0 + 39 ≤ 40))
  rwa [extractLsb'_eq_zero_of_low h (by decide : 39 + 1 ≤ 40)] at hlow

theorem causeWire_code (b : BitVec 1) : (if b = 0 then Cause.overflow else Cause.powerDrop).code = b := by
  revert b; decide

theorem outKind_eq_three {kind : BitVec 2} (h0 : kind.toNat ≠ 0) (h1 : kind.toNat ≠ 1) (h2 : kind.toNat ≠ 2) :
    kind = 3 := by
  revert kind; decide

/-- A word that decodes is the encoding of what it decodes to, row by row of `out_kind` (rule R85, log entry 24). -/
theorem encode_of_decodeOut {w : BitVec 42} {i : Instr} (h : decodeOut w = .ok i) :
    i.WellFormed = true ∧ encode i = some (.out w) := by
  unfold decodeOut at h
  split at h
  next hkind =>
    split at h
    · next hzero =>
      cases h
      exact ⟨rfl, by rw [encode, ← BitVec.eq_of_toNat_eq (y := 0) hkind, outWord_of_payload_zero hzero]⟩
    · cases h
  next hkind =>
    split at h
    · next hcause =>
      split at h
      · next c hcode =>
        cases h
        refine ⟨rfl, ?_⟩
        rw [encode, Ident.word_ofWord, Choice.code_of_ofCode hcode, ← BitVec.eq_of_toNat_eq (y := 1) hkind, ← hcause,
          outWord_fields]
      · cases h
    · cases h
  next hkind =>
    split at h
    · next hzero =>
      cases h
      refine ⟨rfl, ?_⟩
      rw [encode, causeWire_code, ← BitVec.eq_of_toNat_eq (y := 2) hkind, outWord_of_low_zero hzero]
    · cases h
  next h0 h1 h2 =>
    split at h
    · next hzero =>
      cases h
      exact ⟨rfl, by rw [encode, ← outKind_eq_three h0 h1 h2, outWord_of_payload_zero hzero]⟩
    · cases h

/-! ### The statements -/

/-- Settles O6: by cases on the operation, with the lemma of its format; the micro-operations have no line. -/
theorem decodeOfEncodeIsIdentity : Obligations.DecodeOfEncodeIsIdentity := by
  intro i ℓ hwf hline
  cases i with
  | smp x => cases x <;> (cases hline; rfl)
  | nibUnrecognized n => cases hline; exact congrArg Except.ok (decodeNib_of_unmapped hwf)
  | frame => cases hline; exact congrArg Except.ok (decodeFrame_append ..)
  | outReport => cases hline; exact decodeOut_outReport ..
  | outFramingFail cause => cases hline; exact decodeOut_outFramingFail cause
  | perm => cases hline; exact congrArg Except.ok (decodePerm_append ..)
  | scan | sql | demod | syncacc | thr | enterdata | slice | run | place | chk | descr | choice | report | discard =>
    cases hline
  | _ => cases hline; rfl

theorem encode_of_decodeNib (n : Nibble) :
    (decodeNib n).WellFormed = true ∧ encode (decodeNib n) = some (.nib n) := by
  rcases decodeNib_cases n with ⟨hn, h⟩ | ⟨hn, h⟩ | ⟨hn, h⟩ | ⟨hn, h⟩ | ⟨hn, h⟩ | ⟨hn, h⟩ <;> rw [h]
  case inr.inr.inr.inr.inr => exact ⟨by rw [Instr.WellFormed, hn]; rfl, rfl⟩
  all_goals exact hn ▸ ⟨rfl, rfl⟩

/-- In every format but IN a word that decodes is the encoding of what it decodes to. -/
theorem encode_of_decode {ℓ : Line} {i : Instr} (h : decode ℓ = .ok i) (hport : ∀ c x, ℓ ≠ .port c x) :
    i.WellFormed = true ∧ encode i = some ℓ := by
  cases ℓ with
  | port c x => exact absurd rfl (hport c x)
  | inject d => cases h; exact ⟨rfl, rfl⟩
  | eos => cases h; exact ⟨rfl, rfl⟩
  | nib n => cases h; exact encode_of_decodeNib n
  | frame w => cases h; exact ⟨rfl, encode_decodeFrame w⟩
  | out w => exact encode_of_decodeOut h
  | perm w => cases h; exact ⟨rfl, encode_decodePerm w⟩

/-- What a control word decodes to has a word without don't-care bits set, which decodes the same. -/
theorem decodeIn_reencode (c : ControlWord) (x : Sample) :
    (decodeIn c x).WellFormed = true ∧ ∃ ℓ, encode (decodeIn c x) = some ℓ ∧ decode ℓ = .ok (decodeIn c x) := by
  rcases decodeIn_cases c x with h | h | h | h <;> rw [h] <;> exact ⟨rfl, _, rfl, rfl⟩

/-- Settles O7: by whether the line is one of format IN. -/
theorem encodeOfDecodeIsIdentity : Obligations.EncodeOfDecodeIsIdentity := by
  intro ℓ i h
  by_cases hport : ∃ c x, ℓ = .port c x
  · obtain ⟨c, x, rfl⟩ := hport
    cases h
    obtain ⟨hwf, hline⟩ := decodeIn_reencode c x
    exact ⟨hwf, fun hne => absurd rfl (hne c x), hline⟩
  · have hne : ∀ c x, ℓ ≠ .port c x := fun c x heq => hport ⟨c, x, heq⟩
    obtain ⟨hwf, hline⟩ := encode_of_decode h hne
    exact ⟨hwf, fun _ => hline, ℓ, hline, h⟩

/-- Settles O9: the words evaluate. -/
theorem specWordsDecode : Obligations.SpecWordsDecode := by
  unfold Obligations.SpecWordsDecode
  decide

/-- Settles O10. -/
theorem controlWordPriority : Obligations.ControlWordPriority :=
  fun rst cancel inValid x => congrArg Except.ok (decodeIn_ofBool rst cancel inValid x)

/-- Settles O11: fourteen rows against four codes. -/
theorem operationMapMatchesPhaseCodes : Obligations.OperationMapMatchesPhaseCodes := by
  intro u p
  cases u <;> (revert p; decide)

end Sys2Proof
end

section
/-! SUPPORT. The invariants of rule R41: they hold at reset, and every named update of an attempt keeps them, so every
step does. -/

namespace Sys2Proof.Machine

/-! ### The frame of a good state -/

theorem Memory.wf_nil : Memory.wf [] = true := rfl

/-- In a frame of zero bytes no bit is set. -/
theorem Memory.bit_of_read_zero {m : Memory} (h : ∀ a, m.read a = 0) (k : Nat) : m.bit k = false := by
  rw [Memory.bit, h]
  exact BitVec.getLsbD_zero

@[simp] theorem Memory.bit_nil (k : Nat) : Memory.bit [] k = false := Memory.bit_of_read_zero Memory.read_nil k

/-! ### The invariants are about the registers -/

/-- The ports are no part of the invariants. -/
theorem GoodState.of_registers {s t : State} (hs : GoodState s) (hreg : t.registers = s.registers) : GoodState t := by
  cases s
  cases t
  simp only [State.registers, State.mk.injEq] at hreg
  obtain ⟨rfl, rfl, rfl, rfl, rfl, rfl, rfl, rfl, rfl, rfl, rfl, -, -, -, rfl⟩ := hreg
  have hhalt := hs.halt_reset
  have hsearch := hs.search_reset
  simp only [State.discard, State.mk.injEq] at hhalt hsearch
  exact { hs with
    halt_reset := fun h => by simpa only [State.discard, State.mk.injEq] using hhalt h
    search_reset := fun h => by simpa only [State.discard, State.mk.injEq] using hsearch h }

theorem GoodState.openStep {s : State} (hs : GoodState s) : GoodState s.openStep := hs.of_registers rfl

/-! ### Reset -/

theorem goodState_resetWith (c : Params) : GoodState (State.resetWith c) where
  frame_wf := rfl
  bitIdx_le := Nat.zero_le _
  frame_empty _ := ⟨rfl, Memory.read_nil⟩
  bits_clear h := by cases h
  tFlip_le h := by cases h
  tSync0_le h := by cases h
  halt_reset h := by cases h
  search_reset _ := rfl
  prev_power h := by rcases h with h | h <;> cases h
  sync_mode h := by cases h

/-- Settles O2. -/
theorem resetStateIsGood : Obligations.ResetStateIsGood :=
  ⟨goodState_resetWith Config.params, goodState_resetWith⟩

/-- The attempt reset leaves the registers of the reset state (rules R40, R230). -/
theorem State.discard_registers (s : State) : s.discard.registers = (State.resetWith s.cfg).registers := rfl

theorem State.raise_registers (s : State) (e : OutEvent) :
    (s.raise e).registers = (State.resetWith s.cfg).registers := rfl

theorem goodState_discard (s : State) : GoodState s.discard :=
  (goodState_resetWith s.cfg).of_registers s.discard_registers

theorem goodState_raise (s : State) (e : OutEvent) : GoodState (s.raise e) :=
  (goodState_resetWith s.cfg).of_registers (s.raise_registers e)

theorem goodState_cancelled (s : State) : GoodState s.cancelled where
  frame_wf := rfl
  bitIdx_le := Nat.zero_le _
  frame_empty _ := ⟨rfl, Memory.read_nil⟩
  bits_clear h := by cases h
  tFlip_le h := by cases h
  tSync0_le h := by cases h
  halt_reset _ := rfl
  search_reset h := by cases h
  prev_power h := by rcases h with h | h <;> cases h
  sync_mode h := by cases h

/-! ### Time and the previous sample -/

/-- A step without the power-drop failure leaves a sample at or above the squelch level, where R41 (g) asks for one. -/
theorem le_pow_of_not_powerDropped {c : Params} {x : Sample} (habort : c.abortOnPowerDrop = true)
    (h : powerDropped c x = false) : c.sys.le c.squelch (pow c.sys x) = true := by
  simpa [powerDropped, habort, NumSystem.lt] using h

theorem GoodState.scan {s : State} (hs : GoodState s) (hhalt : s.phase ≠ .halt) {x : Sample}
    (hpow : s.phase = .search ∨ powerDropped s.cfg x = false) : GoodState (s.scan x) where
  frame_wf := hs.frame_wf
  bitIdx_le := hs.bitIdx_le
  frame_empty := hs.frame_empty
  bits_clear := hs.bits_clear
  tFlip_le h := (hs.tFlip_le h).trans (Nat.le_add_right _ _)
  tSync0_le h := (hs.tSync0_le h).trans (Nat.le_add_right _ _)
  halt_reset h := absurd h hhalt
  search_reset h := congrArg (fun u : State => { u with et := s.now, prev := x }) (hs.search_reset h)
  prev_power h _ habort := by
    rcases hpow with hsearch | hpow
    · rw [State.scan_phase, hsearch] at h
      rcases h with h | h <;> cases h
    · exact le_pow_of_not_powerDropped habort hpow
  sync_mode := hs.sync_mode

theorem GoodState.tick {s : State} (hs : GoodState s) (hattempt : s.phase = .sync ∨ s.phase = .data) :
    GoodState s.tick where
  frame_wf := hs.frame_wf
  bitIdx_le := hs.bitIdx_le
  frame_empty := hs.frame_empty
  bits_clear := hs.bits_clear
  tFlip_le h := (hs.tFlip_le h).trans (Nat.le_add_right _ _)
  tSync0_le h := (hs.tSync0_le h).trans (Nat.le_add_right _ _)
  halt_reset h := by rw [State.tick_phase] at h; rcases hattempt with h' | h' <;> cases h.symm.trans h'
  search_reset h := congrArg (fun u : State => { u with et := s.now }) (hs.search_reset h)
  prev_power := hs.prev_power
  sync_mode := hs.sync_mode

/-! ### The transitions of an attempt -/

/-- Outside `HALT` and `SEARCH`, the thresholds and the range are no part of the invariants. -/
theorem GoodState.setRange {s : State} (hs : GoodState s) (hsync : s.phase = .sync) (lo hi : NUM) :
    GoodState (s.setRange lo hi) where
  frame_wf := hs.frame_wf
  bitIdx_le := hs.bitIdx_le
  frame_empty := hs.frame_empty
  bits_clear := hs.bits_clear
  tFlip_le := hs.tFlip_le
  tSync0_le := hs.tSync0_le
  halt_reset h := by cases h.symm.trans hsync
  search_reset h := by cases h.symm.trans hsync
  prev_power := hs.prev_power
  sync_mode := hs.sync_mode

/-- Entry to `DATA` now, from a phase in which the frame is empty: nothing is placed, and the last flip is now. `PREV`
is at or above the squelch level (R41 (g)). -/
theorem GoodState.enterData {s : State} (hs : GoodState s) (hdata : s.phase ≠ .data)
    (hprev : s.cfg.sys.lt 0 s.cfg.squelch = true → s.cfg.abortOnPowerDrop = true →
      s.cfg.sys.le s.cfg.squelch (pow s.cfg.sys s.prev) = true) (v : NUM) (t : Nat) :
    GoodState (((s.latchTrigger t).setThresh v).enterData s.et) where
  frame_wf := hs.frame_wf
  bitIdx_le := hs.bitIdx_le
  frame_empty h := absurd rfl h
  bits_clear _ k _ _ := Memory.bit_of_read_zero (hs.frame_empty hdata).2 k
  tFlip_le _ := Nat.le_refl _
  tSync0_le h := by cases h
  halt_reset h := by cases h
  search_reset h := by cases h
  prev_power _ := hprev
  sync_mode h := by cases h

/-- The trigger in mode `PREAMBLE` enters `SYNC` now. -/
theorem GoodState.enterSync {s : State} (hs : GoodState s) (hdata : s.phase ≠ .data)
    (hprev : s.cfg.sys.le s.cfg.squelch (pow s.cfg.sys s.prev) = true) (hmode : s.cfg.threshMode = .preamble) :
    GoodState (s.latchTrigger s.et).enterSync where
  frame_wf := hs.frame_wf
  bitIdx_le := hs.bitIdx_le
  frame_empty _ := hs.frame_empty hdata
  bits_clear h := by cases h
  tFlip_le h := by cases h
  tSync0_le _ := Nat.le_refl _
  halt_reset h := by cases h
  search_reset h := by cases h
  prev_power _ _ _ := hprev
  sync_mode _ := hmode

/-- A run emitted now that leaves the frame unfilled (rules R158, R159). -/
theorem GoodState.emit {s : State} (hs : GoodState s) (hdata : s.phase = .data) (level : Bool) {n : Nat}
    (hfit : s.bitIdx.toNat + n < 64) : GoodState (s.emit s.et level n) := by
  have hidx : (s.emit s.et level n).bitIdx.toNat = s.bitIdx.toNat + n := by
    rw [State.emit_bitIdx, BitVec.toNat_ofNat]
    omega
  exact
    { frame_wf := Memory.wf_placeRun hs.frame_wf (by omega) _
      bitIdx_le := by omega
      frame_empty := fun h => absurd hdata h
      bits_clear := fun _ k hk hk64 => by
        rw [State.emit_frame, Memory.bit_placeRun hs.frame_wf (by omega), if_neg (by omega)]
        exact hs.bits_clear hdata k (by omega) hk64
      tFlip_le := fun _ => Nat.le_refl _
      tSync0_le := fun h => by cases h.symm.trans hdata
      halt_reset := fun h => by cases h.symm.trans hdata
      search_reset := fun h => by cases h.symm.trans hdata
      prev_power := hs.prev_power
      sync_mode := fun h => by cases h.symm.trans hdata }

/-! ### The work of one sample -/

theorem GoodState.run {s : State} (hs : GoodState s) (hdata : s.phase = .data) (level : Bool) :
    GoodState (s.run s.et level) := by
  rcases s.run_raise_or_emit s.et level with ⟨e, -, h⟩ | ⟨hfit, h⟩ <;> rw [h]
  · exact goodState_raise s e
  · exact hs.emit hdata level hfit

theorem GoodState.dataSample {s : State} (hs : GoodState s) (hdata : s.phase = .data) (disc : Option NUM) :
    GoodState (s.dataSample s.et disc) := by
  rcases s.dataSample_cases s.et disc with h | ⟨d, -, -, h⟩ <;> rw [h]
  · exact hs
  · exact hs.run hdata _

theorem GoodState.syncSample {s : State} (hs : GoodState s) (hsync : s.phase = .sync) (disc : Option NUM) :
    GoodState (s.syncSample s.et disc) := by
  have hacc : GoodState (s.accumulate disc) := hs.setRange hsync _ _
  have hdata : s.phase ≠ .data := fun h => by cases h.symm.trans hsync
  rcases s.syncSample_cases s.et disc with ⟨-, h⟩ | ⟨-, h⟩ <;> rw [h]
  · exact hacc
  · exact hacc.enterData hdata (hs.prev_power (.inl hsync)) _ s.tSync0

theorem GoodState.trigger {s : State} (hs : GoodState s) (hsearch : s.phase = .search) (htrig : trig s.cfg s.prev = true) :
    GoodState (s.trigger s.et) := by
  have hdata : s.phase ≠ .data := fun h => by cases h.symm.trans hsearch
  rw [State.trigger_eq]
  split
  · next hmode => exact hs.enterSync hdata htrig hmode
  · exact hs.enterData hdata (fun _ _ => htrig) _ s.et

theorem GoodState.sample {s : State} (hs : GoodState s) (x : Sample) : GoodState (s.sample x) := by
  cases hp : s.phase with
  | halt => rw [State.sample_halt hp]; exact hs.openStep
  | search =>
    have hscan : GoodState (s.openStep.scan x) := hs.openStep.scan (by simp [hp]) (.inl hp)
    rw [State.sample_search hp]
    split
    · next htrig => exact hscan.trigger hp htrig
    · exact hscan
  | sync =>
    rw [State.sample_sync hp]
    split
    · exact goodState_raise _ _
    · next hpow =>
      exact (hs.openStep.scan (by simp [hp]) (.inr (Bool.eq_false_iff.mpr hpow))).syncSample hp _
  | data =>
    rw [State.sample_data hp]
    split
    · exact goodState_raise _ _
    · next hpow =>
      exact (hs.openStep.scan (by simp [hp]) (.inr (Bool.eq_false_iff.mpr hpow))).dataSample hp _

theorem GoodState.smp {x : SmpOperand} {s t : State} (hs : GoodState s) (h : exec (.smp x) s = .next t) :
    GoodState t := by
  cases x with
  | wires x => cases h; exact hs.sample x
  | inject disc =>
    rcases State.injectSample_next h with ⟨hp, rfl⟩ | ⟨hp, rfl⟩
    · exact (hs.openStep.tick (.inl hp)).syncSample hp disc
    · exact (hs.openStep.tick (.inr hp)).dataSample hp disc

theorem GoodState.cancel {s t : State} (hs : GoodState s) (h : exec .cancel s = .next t) : GoodState t := by
  by_cases hp : s.phase = .halt
  · rw [exec_cancel_of_halt hp] at h
    cases h
    exact hs.openStep
  · rw [exec_cancel_of_ne_halt hp] at h
    cases h
    exact goodState_cancelled _

/-! ### The step -/

/-- No line decodes to a micro-operation (rule R95): those have the value of `PHASE` for their code. -/
theorem uop_of_decode {ℓ : Line} {i : Instr} (h : decode ℓ = .ok i) : i.uop = none := by
  obtain ⟨-, -, ℓ', hline, -⟩ := encodeOfDecodeIsIdentity ℓ i h
  cases i with
  | scan | sql | demod | syncacc | thr | enterdata | slice | run | place | chk | descr | choice | report | discard =>
    cases hline
  | _ => rfl

/-- An operation that a line can hold keeps the invariants. -/
theorem GoodState.exec {i : Instr} {s t : State} (hs : GoodState s) (huop : i.uop = none) (h : exec i s = .next t) :
    GoodState t := by
  by_cases hrst : i = .rst
  · rw [hrst, exec_rst] at h
    cases h
    exact goodState_discard _
  · by_cases hcancel : i = .cancel
    · rw [hcancel] at h
      exact hs.cancel h
    · by_cases hsmp : ∃ x, i = .smp x
      · obtain ⟨x, rfl⟩ := hsmp
        exact hs.smp h
      · exact hs.of_registers (exec_registers_of_uop_none huop hrst hcancel (not_exists.mp hsmp) h)

/-- Settles O3: the fetch and the two ends of a step change no register, and the operation of a line keeps the
invariants. -/
theorem stepKeepsGoodState : Obligations.StepKeepsGoodState := by
  intro s s' hs hstep
  rcases step_next_cases hstep with ⟨-, rfl⟩ | ⟨ℓ, rest, i, u, -, hdecode, hexec, rfl⟩
  · exact hs
  · have hopen : GoodState (s.fetch rest).openStep := hs.of_registers rfl
    exact (hopen.exec (uop_of_decode hdecode) hexec).of_registers rfl

end Sys2Proof.Machine
end

section
/-! SUPPORT. `RUN` by the capacity of the frame (rules R156 to R160), by itself and as its micro-operations; and what a
run does to the bits of the frame. -/

namespace Sys2Proof.Machine

/-! ### The outcome of a full frame -/

/-- The output event of a full frame (rule R160): the report if its checksum is valid, else the checksum failure. -/
def Memory.outcome (m : Memory) : OutEvent :=
  if m.chk then .report m.descr (choiceOf m.nib) m.nib else .checksumFail

theorem State.complete_eq_raise (s : State) : s.complete = s.raise s.frame.outcome := s.complete_eq

theorem Memory.outcome_ne_none (m : Memory) : m.outcome ≠ .none := by
  unfold Memory.outcome; split <;> simp

theorem Memory.outcome_eq_report {m : Memory} {id : Ident} {c : Choice} {nib : Nibble}
    (h : m.outcome = .report id c nib) : m.chk = true ∧ id = m.descr ∧ c = choiceOf m.nib ∧ nib = m.nib := by
  unfold Memory.outcome at h
  split at h
  · next hchk => cases h; exact ⟨hchk, rfl, rfl, rfl⟩
  · cases h

/-- The event written out over the bytes of the frame (rules R190, R200, R215). -/
theorem Memory.outcome_eq (m : Memory) :
    m.outcome =
      if ((m.read 3).toNat + (m.read 4).toNat + (m.read 5).toNat + (m.read 6).toNat) % 256 = (m.read 7).toNat then
        .report (descramble (m.read 3) (m.read 4) (m.read 5) (m.read 6)) (choiceOf ((m.read 6).extractLsb' 0 4))
          ((m.read 6).extractLsb' 0 4)
      else .checksumFail :=
  if_congr decide_eq_true_iff rfl rfl

/-- What a full frame gives depends on its last five bytes only (rules R61, R94). -/
theorem Memory.outcome_congr {m m' : Memory} (h : ∀ a, 3 ≤ a → m'.read a = m.read a) : m'.outcome = m.outcome := by
  rw [m.outcome_eq, m'.outcome_eq, h 3 (by decide), h 4 (by decide), h 5 (by decide), h 6 (by decide), h 7 (by decide)]

/-! ### `RUN` by capacity -/

section capacity

variable {s : State} {t : Nat} {level : Bool}

theorem State.run_past (h : 64 < s.bitIdx.toNat + runLength s.cfg t s.tFlip) :
    s.run t level = s.raise (.framingFail .overflow) := by
  rcases s.run_cases t level with ⟨-, h'⟩ | ⟨h', -⟩ | ⟨h', -⟩
  · exact h'
  · omega
  · omega

theorem State.run_full (h : s.bitIdx.toNat + runLength s.cfg t s.tFlip = 64) :
    s.run t level = s.raise (s.frame.placeRun s.bitIdx.toNat (runLength s.cfg t s.tFlip) s.lvl).outcome := by
  rcases s.run_cases t level with ⟨h', -⟩ | ⟨-, h'⟩ | ⟨h', -⟩
  · omega
  · exact h'.trans (State.complete_eq_raise _)
  · omega

theorem State.run_below (h : s.bitIdx.toNat + runLength s.cfg t s.tFlip < 64) :
    s.run t level = s.emit t level (runLength s.cfg t s.tFlip) := by
  rcases s.run_cases t level with ⟨h', -⟩ | ⟨h', -⟩ | ⟨-, h'⟩
  · omega
  · omega
  · exact h'

end capacity

/-- `RUN` as the next state, by capacity. -/
theorem State.run_eq (s : State) (t : Nat) (level : Bool) :
    s.run t level =
      if 64 < s.bitIdx.toNat + runLength s.cfg t s.tFlip then s.raise (.framingFail .overflow)
      else if s.bitIdx.toNat + runLength s.cfg t s.tFlip = 64 then
        s.raise (s.frame.placeRun s.bitIdx.toNat (runLength s.cfg t s.tFlip) s.lvl).outcome
      else s.emit t level (runLength s.cfg t s.tFlip) := by
  split
  · next hpast => exact State.run_past hpast
  · next hpast =>
    split
    · next hfull => exact State.run_full hfull
    · next hfull => exact State.run_below (by omega)

/-- The transients `RUN` leaves when executed by itself (log entry 17). -/
def State.runWires (s : State) (t : Nat) (level : Bool) : State :=
  s.setWires { s.wires with level := level, n := runLength s.cfg t s.tFlip }

theorem exec_run_eq {s : State} (h : s.phase = .data) (t : Nat) (level : Bool) :
    exec (.run t level) s = .next ((s.runWires t level).run t level) := exec_run_of_data h t level

/-- The frame with the run placed, before the bookkeeping. -/
def State.placed (s : State) (n : Nat) : State := { s with frame := s.frame.placeRun s.bitIdx.toNat n s.lvl }

/-- Past the frame `RUN` is `DISCARD` with the failure. -/
theorem exec_run_past {s : State} (hdata : s.phase = .data) {t : Nat} {level : Bool}
    (h : 64 < s.bitIdx.toNat + runLength s.cfg t s.tFlip) :
    exec (.run t level) s =
      .next { s.discard with
        out := .framingFail .overflow, wires := { s.wires with level := level, n := runLength s.cfg t s.tFlip } } :=
  (exec_run_eq hdata t level).trans (congrArg Host.Outcome.next (State.run_past h))

/-- A full frame is discarded with its outcome. -/
theorem exec_run_full {s : State} (hdata : s.phase = .data) {t : Nat} {level : Bool}
    (h : s.bitIdx.toNat + runLength s.cfg t s.tFlip = 64) :
    exec (.run t level) s =
      .next { s.discard with
        out := (s.placed (runLength s.cfg t s.tFlip)).frame.outcome,
        wires := { s.wires with level := level, n := runLength s.cfg t s.tFlip } } :=
  (exec_run_eq hdata t level).trans (congrArg Host.Outcome.next (State.run_full h))

/-- Below the capacity `RUN` is the placements and the bookkeeping. -/
theorem exec_run_below {s : State} (hdata : s.phase = .data) {t : Nat} {level : Bool}
    (h : s.bitIdx.toNat + runLength s.cfg t s.tFlip < 64) :
    exec (.run t level) s =
      .next { s.placed (runLength s.cfg t s.tFlip) with
        bitIdx := BitVec.ofNat 7 (s.bitIdx.toNat + runLength s.cfg t s.tFlip), lvl := level, tFlip := t,
        wires := { s.wires with level := level, n := runLength s.cfg t s.tFlip } } :=
  (exec_run_eq hdata t level).trans (congrArg Host.Outcome.next (State.run_below h))

/-- Settles O40. -/
theorem runByCapacity : Obligations.RunByCapacity := by
  intro t level s hdata
  dsimp only
  rw [exec_run_eq hdata, State.run_eq]
  refine congrArg Host.Outcome.next (if_congr Iff.rfl rfl (if_congr Iff.rfl ?full rfl))
  case full =>
    rw [Memory.outcome_eq]
    exact apply_ite (s.runWires t level).raise _ _ _

/-! ### The run length -/

/-- The port of the transients is none of `RUN`'s. -/
theorem State.run_wires (s : State) (t : Nat) (level : Bool) : (s.run t level).wires = s.wires := by
  rcases s.run_raise_or_emit t level with ⟨e, -, h⟩ | ⟨-, h⟩ <;> rw [h] <;> rfl

/-- The truncated quotient counts the whole intervals that fit into an interval of time (rule R156). -/
theorem truncated_quotient_bounds {a t d : Nat} (hd : 0 < d) (hat : a ≤ t) :
    a + (t - a) / d * d ≤ t ∧ t < a + ((t - a) / d + 1) * d := by
  have hsplit := Nat.div_add_mod' (t - a) d
  have hmod := Nat.mod_lt (t - a) hd
  rw [Nat.add_one_mul]
  omega

/-- Settles O39. -/
theorem runLengthIsTruncatedQuotient : Obligations.RunLengthIsTruncatedQuotient := by
  intro t level s hdata hflip
  refine ⟨_, exec_run_eq hdata t level, ?_⟩
  rw [State.run_wires]
  exact ⟨rfl, truncated_quotient_bounds s.cfg.unitInterval_pos hflip⟩

/-! ### The bytes of a run -/

/-- A placement ORs into one byte. -/
theorem Memory.read_placeBit {m : Memory} (hm : m.wf = true) (k : Nat) (b : Bool) (a : Nat) :
    (m.placeBit k b).read a = if a = k / 8 ∧ b = true then m.read a ||| bitMask k else m.read a := by
  by_cases ha : a = k / 8
  · rw [ha, Memory.read_placeBit_same hm]
    exact if_congr (by simp) rfl rfl
  · rw [Memory.read_placeBit_of_ne hm ha, if_neg fun h => ha h.1]

/-- A byte with no bit in the run reads as before. -/
theorem Memory.read_placeRun_outside {m : Memory} (hm : m.wf = true) {k n a : Nat} (hfit : k + n ≤ 64) (b : Bool)
    (ha : a < k / 8 ∨ k + n ≤ 8 * a) : (m.placeRun k n b).read a = m.read a := by
  induction n generalizing m k with
  | zero => rfl
  | succ n ih =>
    rw [Memory.placeRun, ih (Memory.wf_placeBit hm (by omega) b) (by omega) (by omega),
      Memory.read_placeBit_of_ne hm (by omega)]

/-- The bytes a run leaves at an offset depend on the bytes that were there. -/
theorem Memory.read_placeRun_congr {m m' : Memory} (hm : m.wf = true) (hm' : m'.wf = true) {k n a : Nat}
    (hfit : k + n ≤ 64) (b : Bool) (h : m'.read a = m.read a) :
    (m'.placeRun k n b).read a = (m.placeRun k n b).read a := by
  induction n generalizing m m' k with
  | zero => exact h
  | succ n ih =>
    refine ih (Memory.wf_placeBit hm (by omega) b) (Memory.wf_placeBit hm' (by omega) b) (by omega) ?_
    rw [Memory.read_placeBit hm, Memory.read_placeBit hm', h]

/-- Settles O41: the run is emitted, and where the frame was clear the OR of a bit is the bit. -/
theorem runPlacesOldLevelOnly : Obligations.RunPlacesOldLevelOnly := by
  intro t level s hdata hwf hclear n k hfit
  have hbit := Memory.bit_placeRun hwf (k := k) (n := n) (by omega) s.lvl
  refine ⟨_, exec_run_below hdata hfit, ?count, ?inside, ?outside, ?bytes⟩
  case count =>
    exact (BitVec.toNat_ofNat (k + n) 7).trans (Nat.mod_eq_of_lt (Nat.lt_trans hfit (by decide)))
  case inside =>
    intro j hkj hjn
    refine (hbit j).trans ?_
    rw [if_pos ⟨hkj, hjn⟩, hclear j hkj (by omega), Bool.false_or]
  case outside =>
    intro j hj
    exact (hbit j).trans (if_neg (by omega))
  case bytes =>
    intro a ha
    exact Memory.read_placeRun_outside hwf (k := k) (n := n) hfit.le s.lvl ha

/-- The output of a run, by capacity; below it a run leaves the port as it is. -/
theorem State.run_out (s : State) (t : Nat) (level : Bool) :
    (s.run t level).out =
      if 64 < s.bitIdx.toNat + runLength s.cfg t s.tFlip then .framingFail .overflow
      else if s.bitIdx.toNat + runLength s.cfg t s.tFlip = 64 then
        (s.frame.placeRun s.bitIdx.toNat (runLength s.cfg t s.tFlip) s.lvl).outcome
      else s.out := by
  rw [State.run_eq, apply_ite State.out, apply_ite State.out]
  rfl

/-- Settles O52: the address bytes are no part of the capacity check, nor of what a full frame gives. -/
theorem addressBytesHaveNoEffect : Obligations.AddressBytesHaveNoEffect := by
  intro t level s m u u' hdata hwf hwf' hsame hu hu'
  cases (exec_run_eq hdata t level).symm.trans hu
  cases (exec_run_eq (s := { s with frame := m }) hdata t level).symm.trans hu'
  rw [State.run_out, State.run_out]
  refine ite_congr rfl (fun _ => rfl) fun _ => ite_congr rfl (fun hfull => ?_) fun _ => rfl
  exact Memory.outcome_congr fun a ha => Memory.read_placeRun_congr hwf hwf' hfull.le s.lvl (hsame a ha)

/-! ### Past the frame -/

theorem execPlace_out {k : Nat} (hk : k < 64) (b : Bool) (s : State) :
    ∃ u, exec (.place k b) s = .next u ∧ u.out = s.out :=
  ⟨_, execPlace_eq hk b s, by split <;> rfl⟩

/-- Settles O46. -/
theorem placeBeyondFrameFails : Obligations.PlaceBeyondFrameFails := by
  intro k t b level s
  refine ⟨fun hk => exec_place_beyond hk b s, fun hk => execPlace_out (by omega) b s, fun hdata hpast => ?_⟩
  exact ⟨_, exec_run_past hdata hpast, rfl, rfl⟩

/-! ### `RUN` as its micro-operations -/

theorem Memory.outcome_of_chk {m : Memory} (h : m.chk = true) : m.outcome = .report m.descr (choiceOf m.nib) m.nib :=
  if_pos h

theorem Memory.outcome_of_not_chk {m : Memory} (h : ¬ m.chk = true) : m.outcome = .checksumFail := if_neg h

end Sys2Proof.Machine
end

section
/-! SUPPORT. The sample step: what it outputs and leaves, the composition of rule R113, and its execution as the
micro-operations of rule R96. -/

namespace Sys2Proof.Machine

/-! ### The conditions of the step -/

theorem powerDropped_iff (c : Params) (x : Sample) :
    powerDropped c x = true ↔ c.abortOnPowerDrop = true ∧ c.sys.lt (pow c.sys x) c.squelch = true := by
  rw [powerDropped, Bool.and_eq_true]

theorem windowClosed_iff (c : Params) (t tSync0 : Nat) :
    windowClosed c t tSync0 = true ↔ c.sizeSync * c.unitInterval ≤ t - tSync0 := decide_eq_true_iff

/-- The work of one discriminator value in `SYNC`, by the window. -/
theorem State.syncSample_eq (s : State) (t : Nat) (disc : Option NUM) :
    s.syncSample t disc =
      if s.cfg.sizeSync * s.cfg.unitInterval ≤ t - s.tSync0 then
        ((s.accumulate disc).setThresh (thr s.cfg (s.accumulate disc).dmin (s.accumulate disc).dmax)).enterData t
      else s.accumulate disc :=
  if_congr (windowClosed_iff s.cfg t s.tSync0) rfl rfl

/-! ### Outputs and ends of attempts -/

/-- One discriminator value in `DATA` ends the attempt with an outcome, or leaves port, time and sample as they are. -/
theorem State.dataSample_ends_or_goes_on (s : State) (t : Nat) (disc : Option NUM) :
    (∃ e, e ≠ .none ∧ s.dataSample t disc = s.raise e) ∨
    ((s.dataSample t disc).out = s.out ∧ (s.dataSample t disc).et = s.et ∧ (s.dataSample t disc).prev = s.prev) := by
  rcases s.dataSample_cases t disc with h | ⟨d, -, -, h⟩ <;> rw [h]
  · exact .inr ⟨rfl, rfl, rfl⟩
  · rcases s.run_raise_or_emit t (sliceLevel s.cfg.sys d s.thresh) with ⟨e, he, h'⟩ | ⟨-, h'⟩ <;> rw [h']
    · exact .inl ⟨e, he, rfl⟩
    · exact .inr ⟨rfl, rfl, rfl⟩

/-- One discriminator value in `SYNC` leaves port, time and sample as they are. -/
theorem State.syncSample_goes_on (s : State) (t : Nat) (disc : Option NUM) :
    (s.syncSample t disc).out = s.out ∧ (s.syncSample t disc).et = s.et ∧ (s.syncSample t disc).prev = s.prev := by
  rcases s.syncSample_cases t disc with ⟨-, h⟩ | ⟨-, h⟩ <;> rw [h] <;> exact ⟨rfl, rfl, rfl⟩

theorem State.trigger_goes_on (s : State) (t : Nat) :
    (s.trigger t).out = s.out ∧ (s.trigger t).et = s.et ∧ (s.trigger t).prev = s.prev := by
  rw [State.trigger_eq]; split <;> exact ⟨rfl, rfl, rfl⟩

/-- A sample step outside `HALT` ends the attempt with an outcome, or advances the time and records the sample. -/
theorem State.sample_ends_or_goes_on {s : State} (hhalt : s.phase ≠ .halt) (x : Sample) :
    (∃ e, e ≠ .none ∧ s.sample x = s.openStep.raise e) ∨
    ((s.sample x).out = .none ∧ (s.sample x).et = s.now ∧ (s.sample x).prev = x) := by
  cases hp : s.phase with
  | halt => exact absurd hp hhalt
  | search =>
    rw [State.sample_search hp]
    split
    · exact .inr (State.trigger_goes_on _ _)
    · exact .inr ⟨rfl, rfl, rfl⟩
  | sync =>
    rw [State.sample_sync hp]
    split
    · exact .inl ⟨_, by simp, rfl⟩
    · exact .inr (State.syncSample_goes_on _ _ _)
  | data =>
    rw [State.sample_data hp]
    split
    · exact .inl ⟨_, by simp, rfl⟩
    · exact State.dataSample_ends_or_goes_on (s.openStep.scan x) _ _

/-- A sample or test-point step ends the attempt, or outputs nothing. -/
theorem exec_smp_ends_or_quiet {x : SmpOperand} {s t : State} (h : exec (.smp x) s = .next t) :
    (∃ e, t = s.openStep.raise e) ∨ t.out = .none := by
  cases x with
  | wires x =>
    cases h
    by_cases hhalt : s.phase = .halt
    · rw [State.sample_halt hhalt]
      exact .inr rfl
    · rcases State.sample_ends_or_goes_on hhalt x with ⟨e, -, h⟩ | ⟨hout, -, -⟩
      · exact .inl ⟨e, h⟩
      · exact .inr hout
  | inject disc =>
    rcases State.injectSample_next h with ⟨-, rfl⟩ | ⟨-, rfl⟩
    · exact .inr (State.syncSample_goes_on _ _ _).1
    · rcases State.dataSample_ends_or_goes_on s.openStep.tick s.now disc with ⟨e, -, h⟩ | ⟨hout, -, -⟩
      · exact .inl ⟨e, h⟩
      · exact .inr hout

/-- Settles O20: the only steps with an output are the ones that raise it, with the attempt reset. -/
theorem outcomeLeavesResetRegisters : Obligations.OutcomeLeavesResetRegisters := by
  intro x s t hexec hout
  rcases exec_smp_ends_or_quiet hexec with ⟨e, rfl⟩ | hquiet
  · exact State.raise_registers _ e
  · exact absurd hquiet hout

/-- Settles O28. -/
theorem elapsedTimeAndPreviousAfterSample : Obligations.ElapsedTimeAndPreviousAfterSample := by
  intro x s t hhalt hexec
  cases hexec
  rcases State.sample_ends_or_goes_on hhalt x with ⟨e, he, h⟩ | ⟨hout, het, hprev⟩
  · rw [h]
    exact ⟨fun hnone => absurd hnone he, fun _ => ⟨rfl, rfl⟩⟩
  · exact ⟨fun _ => ⟨het, hprev⟩, fun hne => absurd hout hne⟩

/-! ### The composition of rule R113 -/

/-- The work of one discriminator value in `DATA`: only a valid value at a flip does anything (rule R155). -/
theorem State.dataSample_none (s : State) (t : Nat) : s.dataSample t none = s := rfl

theorem State.dataSample_some (s : State) (t : Nat) (d : NUM) :
    s.dataSample t (some d) =
      if sliceLevel s.cfg.sys d s.thresh = s.lvl then s else s.run t (sliceLevel s.cfg.sys d s.thresh) := rfl

/-- Settles O21, phase by phase. -/
theorem sampleStepIsTheComposition : Obligations.SampleStepIsTheComposition := by
  intro x s hhalt
  dsimp only
  rw [exec_smp_wires]
  refine congrArg Host.Outcome.next ?_
  cases hp : s.phase with
  | halt => exact absurd hp hhalt
  | search =>
    rw [State.sample_search hp, State.trigger_eq]
    exact if_congr Iff.rfl (if_congr Iff.rfl rfl (by cases s; cases hp; rfl)) (by cases s; cases hp; rfl)
  | sync =>
    rw [State.sample_sync hp, State.syncSample_eq]
    exact if_congr (powerDropped_iff s.cfg x) rfl (if_congr Iff.rfl rfl (by cases s; cases hp; rfl))
  | data =>
    rw [State.sample_data hp]
    refine if_congr (powerDropped_iff s.cfg x) rfl ?_
    cases demod s.cfg.sys x s.prev with
    | none => cases s; cases hp; rfl
    | some d => cases s; cases hp; rfl

/-- Settles O22. -/
theorem haltIgnoresSamples : Obligations.HaltIgnoresSamples :=
  fun x _ hhalt => congrArg Host.Outcome.next (State.sample_halt hhalt x)

/-- Settles O23, phase by phase. -/
theorem testPointStep : Obligations.TestPointStep := by
  intro disc s
  dsimp only
  rw [exec_smp_inject]
  cases hp : s.phase with
  | search => exact State.injectSample_refused (.inl hp) disc
  | halt => exact State.injectSample_refused (.inr hp) disc
  | sync =>
    rw [State.injectSample_sync hp, State.syncSample_eq, apply_ite Host.Outcome.next]
    exact if_congr Iff.rfl rfl (by cases s; cases hp; rfl)
  | data =>
    rw [State.injectSample_data hp]
    cases disc with
    | none => cases s; cases hp; rfl
    | some d =>
      rw [State.dataSample_some, apply_ite Host.Outcome.next]
      cases s; cases hp; rfl

/-! ### Phases and outputs (rule R115) -/

theorem State.trigger_phase (s : State) (t : Nat) :
    (s.trigger t).phase = if s.cfg.threshMode = .preamble then .sync else .data := by
  rw [State.trigger_eq]; split <;> rfl

theorem State.syncSample_phase {s : State} (hsync : s.phase = .sync) (t : Nat) (disc : Option NUM) :
    (s.syncSample t disc).phase = if s.cfg.sizeSync * s.cfg.unitInterval ≤ t - s.tSync0 then .data else .sync := by
  rw [State.syncSample_eq, apply_ite State.phase]
  exact if_congr Iff.rfl rfl hsync

/-- The phase and the output of a run, by capacity. -/
theorem State.run_phase_out {s : State} (hdata : s.phase = .data) (hnone : s.out = .none) (t : Nat) (level : Bool) :
    if 64 < s.bitIdx.toNat + runLength s.cfg t s.tFlip then
      (s.run t level).phase = .search ∧ (s.run t level).out = .framingFail .overflow
    else if s.bitIdx.toNat + runLength s.cfg t s.tFlip = 64 then
      (s.run t level).phase = .search ∧
        (s.run t level).out = (s.frame.placeRun s.bitIdx.toNat (runLength s.cfg t s.tFlip) s.lvl).outcome
    else (s.run t level).phase = .data ∧ (s.run t level).out = .none := by
  split
  · next hpast => rw [State.run_past hpast]; exact ⟨rfl, rfl⟩
  · next hpast =>
    split
    · next hfull => rw [State.run_full hfull]; exact ⟨rfl, rfl⟩
    · next hfull => rw [State.run_below (by omega)]; exact ⟨hdata, hnone⟩

theorem State.sample_search_phase_out {s : State} (hsearch : s.phase = .search) (x : Sample) :
    (s.sample x).out = .none ∧
      (s.sample x).phase = if trig s.cfg x = true then (if s.cfg.threshMode = .preamble then .sync else .data)
        else .search := by
  rw [State.sample_search hsearch]
  split
  · exact ⟨(State.trigger_goes_on _ _).1, State.trigger_phase _ _⟩
  · exact ⟨rfl, hsearch⟩

theorem State.sample_sync_phase_out {s : State} (hsync : s.phase = .sync) (x : Sample) :
    if s.cfg.abortOnPowerDrop = true ∧ s.cfg.sys.lt (pow s.cfg.sys x) s.cfg.squelch = true then
      (s.sample x).phase = .search ∧ (s.sample x).out = .framingFail .powerDrop
    else (s.sample x).out = .none ∧
      (s.sample x).phase =
        if s.cfg.sizeSync * s.cfg.unitInterval ≤ s.et + s.cfg.timeStep - s.tSync0 then .data else .sync := by
  rw [State.sample_sync hsync]
  simp only [← powerDropped_iff]
  split
  · exact ⟨rfl, rfl⟩
  · exact ⟨(State.syncSample_goes_on _ _ _).1, State.syncSample_phase (s := s.openStep.scan x) hsync _ _⟩

/-- A valid discriminator value in `DATA`: nothing, or the run at a flip. -/
theorem State.dataSample_some_phase_out {s : State} (hdata : s.phase = .data) (hnone : s.out = .none) (t : Nat)
    (d : NUM) :
    if s.cfg.sys.lt 0 (s.cfg.sys.sub d s.thresh) = s.lvl then
      (s.dataSample t (some d)).phase = .data ∧ (s.dataSample t (some d)).out = .none
    else if 64 < s.bitIdx.toNat + runLength s.cfg t s.tFlip then
      (s.dataSample t (some d)).phase = .search ∧ (s.dataSample t (some d)).out = .framingFail .overflow
    else if s.bitIdx.toNat + runLength s.cfg t s.tFlip = 64 then
      (s.dataSample t (some d)).phase = .search ∧
        (s.dataSample t (some d)).out = (s.frame.placeRun s.bitIdx.toNat (runLength s.cfg t s.tFlip) s.lvl).outcome
    else (s.dataSample t (some d)).phase = .data ∧ (s.dataSample t (some d)).out = .none := by
  rw [State.dataSample_some]
  by_cases hlevel : sliceLevel s.cfg.sys d s.thresh = s.lvl
  · rw [if_pos hlevel]
    exact (if_pos hlevel).mpr ⟨hdata, hnone⟩
  · rw [if_neg hlevel]
    exact (if_neg hlevel).mpr (State.run_phase_out hdata hnone t _)

/-- Settles O29. -/
theorem phaseTransitionTable : Obligations.PhaseTransitionTable := by
  refine ⟨?rst, ?cancel, ?idle, ?smp⟩
  case rst => intro s t h; cases h; exact ⟨rfl, rfl⟩
  case cancel =>
    intro s t h
    by_cases hhalt : s.phase = .halt
    · cases (exec_cancel_of_halt hhalt).symm.trans h
      exact ⟨hhalt, rfl⟩
    · cases (exec_cancel_of_ne_halt hhalt).symm.trans h
      exact ⟨rfl, rfl⟩
  case idle => intro s t h; cases h; exact ⟨rfl, rfl⟩
  case smp =>
    intro x s t h
    cases h
    cases hp : s.phase with
    | halt => rw [State.sample_halt hp]; exact ⟨hp, rfl⟩
    | search => exact State.sample_search_phase_out hp x
    | sync => exact State.sample_sync_phase_out hp x
    | data =>
      rw [State.sample_data hp]
      simp only [← powerDropped_iff]
      split
      · exact ⟨rfl, rfl⟩
      · cases demod s.cfg.sys x s.prev with
        | none => exact ⟨hp, rfl⟩
        | some d => exact State.dataSample_some_phase_out (s := s.openStep.scan x) hp rfl s.now d

/-! ### Reports -/

/-- A run reports only a frame that it fills exactly and that is valid (rule R160). -/
theorem State.run_report {s : State} (hnone : s.out = .none) {t : Nat} {level : Bool} {id : Ident} {c : Choice}
    {nib : Nibble} (h : (s.run t level).out = .report id c nib) :
    s.bitIdx.toNat + runLength s.cfg t s.tFlip = 64 ∧
      (s.frame.placeRun s.bitIdx.toNat (runLength s.cfg t s.tFlip) s.lvl).outcome = .report id c nib := by
  rw [State.run_out] at h
  split at h
  · cases h
  · split at h
    · next hfull => exact ⟨hfull, h⟩
    · cases hnone.symm.trans h

/-- One discriminator value in `DATA` reports only by a run at a flip (rule R155). -/
theorem State.dataSample_report {s : State} (hnone : s.out = .none) {t : Nat} {disc : Option NUM} {id : Ident}
    {c : Choice} {nib : Nibble} (h : (s.dataSample t disc).out = .report id c nib) :
    (∃ d, disc = some d ∧ sliceLevel s.cfg.sys d s.thresh ≠ s.lvl) ∧
      s.bitIdx.toNat + runLength s.cfg t s.tFlip = 64 ∧
      (s.frame.placeRun s.bitIdx.toNat (runLength s.cfg t s.tFlip) s.lvl).outcome = .report id c nib := by
  rcases s.dataSample_cases t disc with hsame | ⟨d, hdisc, hflip, hrun⟩
  · rw [hsame] at h
    cases hnone.symm.trans h
  · rw [hrun] at h
    exact ⟨⟨d, hdisc, hflip⟩, State.run_report hnone h⟩

/-- A sample reports only in `DATA`, with enough power where that is checked. -/
theorem State.sample_report {s : State} {x : Sample} {id : Ident} {c : Choice} {nib : Nibble}
    (h : (s.sample x).out = .report id c nib) :
    s.phase = .data ∧ ((s.openStep.scan x).dataSample s.now (demod s.cfg.sys x s.prev)).out = .report id c nib := by
  cases hp : s.phase with
  | halt => rw [State.sample_halt hp] at h; cases h
  | search => cases (State.sample_search_phase_out hp x).1.symm.trans h
  | sync =>
    rw [State.sample_sync hp] at h
    split at h
    · cases h
    · cases (State.syncSample_goes_on _ _ _).1.symm.trans h
  | data =>
    rw [State.sample_data hp] at h
    split at h
    · cases h
    · exact ⟨rfl, h⟩

/-- Settles O30. -/
theorem reportOnlyOfValidFullFrame : Obligations.ReportOnlyOfValidFullFrame := by
  intro x s t id c nib hexec hout
  cases x with
  | wires x =>
    cases hexec
    obtain ⟨hdata, hreport⟩ := State.sample_report hout
    obtain ⟨hflip, hfull, houtcome⟩ := State.dataSample_report (s := s.openStep.scan x) rfl hreport
    exact ⟨hdata, hflip, hfull, Memory.outcome_eq_report houtcome⟩
  | inject disc =>
    rcases State.injectSample_next hexec with ⟨-, rfl⟩ | ⟨hdata, rfl⟩
    · cases (State.syncSample_goes_on _ _ _).1.symm.trans hout
    · obtain ⟨hflip, hfull, houtcome⟩ := State.dataSample_report (s := s.openStep.tick) rfl hout
      exact ⟨hdata, hflip, hfull, Memory.outcome_eq_report houtcome⟩

end Sys2Proof.Machine
end

section
/-! SUPPORT. Single operations where their phase selects them, and the sample step as the execution of its
micro-operations one after the other (rule R96). -/

namespace Sys2Proof.Machine

/-! ### Single operations -/

/-- Settles O12: the phase code is not one of the row, or the row's own condition on `p` shuts it out. -/
theorem unselectedMicroOperationsChangeNothing : Obligations.UnselectedMicroOperationsChangeNothing := by
  intro i u s huop hwf hout
  have hsel : s.selects u = false := by
    rcases hout with hcode | ⟨hu, hsearch, hmode⟩
    · simp [State.selects, hcode]
    · rcases hu with rfl | rfl <;> simp [State.selects, hsearch, hmode]
  exact ⟨hsel, exec_of_not_selected huop hwf hsel⟩

/-- Settles O1. -/
theorem resetHoldsResetValues : Obligations.ResetHoldsResetValues := by
  intro c s
  refine ⟨_, exec_rst s, ?_⟩
  rintro u (rfl | rfl) <;> exact ⟨rfl, rfl, rfl, rfl, rfl, rfl, rfl, rfl, rfl, rfl, Memory.read_nil, rfl⟩

/-- Settles O13. -/
theorem rstRestoresTheResetState : Obligations.RstRestoresTheResetState := exec_rst

/-- Settles O14. -/
theorem cancelHalts : Obligations.CancelHalts :=
  fun _ => ⟨exec_cancel_of_ne_halt, exec_cancel_of_halt⟩

/-- Settles O17. -/
theorem endOfStimulusChangesNothing : Obligations.EndOfStimulusChangesNothing :=
  fun s => ⟨exec_eos s, step_nil⟩

/-- Settles O18. -/
theorem reportDrivesTheOutput : Obligations.ReportDrivesTheOutput :=
  fun id c nib _ hdata => exec_report_of_data hdata id c nib

/-- Settles O19. -/
theorem discardIsTheAttemptReset : Obligations.DiscardIsTheAttemptReset :=
  fun s hattempt => ⟨_, _, exec_discard_of_attempt hattempt, exec_rst s, rfl, rfl⟩

/-- Settles O27. -/
theorem scanAdvancesTimeAndRecordsSample : Obligations.ScanAdvancesTimeAndRecordsSample :=
  fun x _ hhalt => exec_scan_of_ne_halt hhalt x

theorem State.sqlTrigger_preamble {s : State} (h : s.cfg.threshMode = .preamble) (t : Nat) :
    s.sqlTrigger t = (s.latchTrigger t).enterSync := if_pos h

theorem State.sqlTrigger_other {s : State} (h : s.cfg.threshMode ≠ .preamble) (t : Nat) :
    s.sqlTrigger t = s.latchTrigger t := if_neg h

/-- Settles O31. -/
theorem squelchOperation : Obligations.SquelchOperation := by
  intro x t s hsearch
  exact exec_sql_of_search hsearch x t

theorem dv_iff (N : NumSystem) (x prev : Sample) :
    dv N x prev = true ↔ ¬(crossRe N x prev = 0 ∧ crossIm N x prev = 0) := by
  simp only [dv, Bool.not_eq_true', ← Bool.not_eq_true, Bool.and_eq_true, decide_eq_true_eq]

/-- The discriminator pair: invalid at a zero product, else its angle (rule R135). -/
theorem demod_eq (N : NumSystem) (x prev : Sample) :
    demod N x prev =
      if crossRe N x prev = 0 ∧ crossIm N x prev = 0 then none else some (N.arg (crossRe N x prev) (crossIm N x prev)) := by
  rw [← ite_not]
  exact if_congr (dv_iff N x prev) rfl rfl

/-- Settles O32. -/
theorem demodulatorOperation : Obligations.DemodulatorOperation := by
  intro x s hattempt
  rw [exec_demod_of_attempt hattempt, demod_eq]
  rfl

/-- Settles O37. -/
theorem thresholdAndEntryToData : Obligations.ThresholdAndEntryToData := by
  intro lo hi t s hentry
  refine ⟨(exec_thr_of_entry hentry lo hi).trans ?_, exec_enterdata_of_entry hentry t⟩
  cases hmode : s.cfg.threshMode <;> simp only [State.setThresh, thr, hmode]

/-- Settles O49: the fields are the operands, and the low nibble of a byte of two nibbles is the second. -/
theorem frameFieldExtraction : Obligations.FrameFieldExtraction := by
  intro addr in0 in1 in2 hi nib csum s
  refine ⟨rfl, ?_⟩
  revert hi nib
  decide

/-- Settles O50. -/
theorem checksumOperation : Obligations.ChecksumOperation := fun _ hdata => exec_chk_of_data hdata

/-- Settles O53. -/
theorem descrambleOperation : Obligations.DescrambleOperation := fun _ hdata => exec_descr_of_data hdata

/-- Settles O60. -/
theorem outputRowsDriveThePort : Obligations.OutputRowsDriveThePort := by
  intro id c nib cause s
  refine ⟨rfl, rfl, rfl, rfl, fun e => ?_⟩
  cases e with
  | none => exact ⟨_, decodeOut_outNone, rfl⟩
  | report id c nib => exact ⟨_, decodeOut_outReport id c nib, rfl⟩
  | framingFail cause => exact ⟨_, decodeOut_outFramingFail cause, rfl⟩
  | checksumFail => exact ⟨_, decodeOut_outChecksumFail, rfl⟩

/-! ### Button codes -/

theorem choiceOf_of_unmapped {n : Nibble} (h : mappedCodes.contains n = false) : choiceOf n = .unrecognized := by
  revert n; decide

/-- Executing a button code leaves the pair of rule R215, whatever the code. -/
theorem exec_decodeNib (n : Nibble) (s : State) : exec (decodeNib n) s = .next (s.mapNibble n (choiceOf n)) := by
  rcases decodeNib_cases n with ⟨rfl, -⟩ | ⟨rfl, -⟩ | ⟨rfl, -⟩ | ⟨rfl, -⟩ | ⟨rfl, -⟩ | ⟨hn, h⟩
  case inr.inr.inr.inr.inr => rw [h, choiceOf_of_unmapped hn]; rfl
  all_goals rfl

/-- Settles O58. -/
theorem choiceRunsItsButtonCode : Obligations.ChoiceRunsItsButtonCode := by
  intro s hdata
  rw [exec_choice_of_data hdata, exec_decodeNib]
  rfl

/-- Settles O57: each listed code is one row of the table. -/
theorem buttonCodeRows : Obligations.ButtonCodeRows := by
  intro s
  refine ⟨?rows, by decide, rfl, rfl, rfl, rfl, rfl, fun n => rfl⟩
  case rows =>
    simp only [List.forall_mem_cons]
    exact ⟨⟨_, rfl, by decide, rfl⟩, ⟨_, rfl, by decide, rfl⟩, ⟨_, rfl, by decide, rfl⟩, ⟨_, rfl, by decide, rfl⟩,
      ⟨_, rfl, by decide, rfl⟩, by simp⟩

/-- Settles O56: the sixteen codes one by one. -/
theorem choiceTable : Obligations.ChoiceTable := by
  intro s hdata
  refine (exec_choice_of_data hdata).trans ?_
  refine congrArg (fun c => Host.Outcome.next (s.mapNibble s.frame.nib c)) ?_
  change choiceOf ((s.frame.read 6).extractLsb' 0 4) = _
  generalize (s.frame.read 6).extractLsb' 0 4 = n
  revert n
  decide

/-! ### The step -/

/-- Settles O8. -/
theorem stepRunsDecodedInstruction : Obligations.StepRunsDecodedInstruction := by
  refine ⟨fun s ℓ rest i hcons hdecode _ => ?line, fun s hnil => ?eos⟩
  case line =>
    rw [step_cons hcons, hdecode]
    change closeOutcome (exec i { s with stimulus := rest, out := .none, wires := .idle }) = _
    cases exec i { s with stimulus := rest, out := .none, wires := .idle } <;> rfl
  case eos => rw [step_nil hnil, exec_eos]

/-! ### Configuration -/

theorem start_of_error {r : RawParams} {e : ConfigError} (h : Config.check r = .error e) :
    start r = .refused (.illegalConfiguration e) := by
  rw [start, h]

theorem start_of_ok {r : RawParams} {c : Params} (h : Config.check r = .ok c) : start r = .next (.resetWith c) := by
  rw [start, h]

/-- The constants of an offered configuration whose constraints of rule R11 hold. -/
def acceptedParams (r : RawParams) (n : NumChoice) (ht : 0 < r.timeStep) (hu : 0 < r.unitInterval)
    (hs : n.system.le r.sentLo r.sentHi = true) : Params :=
  { num := n, squelch := r.squelch, sizeSync := r.sizeSync, timeStep := r.timeStep, unitInterval := r.unitInterval,
    threshMode := r.threshMode, threshFixed := r.threshFixed, sentHi := r.sentHi, sentLo := r.sentLo,
    abortOnPowerDrop := r.abortOnPowerDrop, timeStep_pos := ht, unitInterval_pos := hu, sent_le := hs }

/-- The check accepts the constants as offered, and refuses by name at the first constraint that fails. -/
theorem check_of_admitted {r : RawParams} {n : NumChoice} (hn : r.num = .admitted n) :
    Config.check r =
      if ht : 0 < r.timeStep then
        if hu : 0 < r.unitInterval then
          if hs : n.system.le r.sentLo r.sentHi = true then
            if r.frameBytes = 8 then .ok (acceptedParams r n ht hu hs) else .error .frameNotEightBytes
          else .error .sentinelsCrossed
        else .error .unitIntervalZero
      else .error .timeStepZero := by
  cases r
  cases hn
  rfl

/-- A constraint fails exactly where the check refuses. -/
theorem check_of_illegal {r : RawParams} {n : NumChoice} (hn : r.num = .admitted n)
    (h : r.timeStep = 0 ∨ r.unitInterval = 0 ∨ n.system.lt r.sentHi r.sentLo = true ∨ r.frameBytes ≠ 8) :
    ∃ e, Config.check r = .error e := by
  rw [check_of_admitted hn]
  by_cases ht : 0 < r.timeStep
  · by_cases hu : 0 < r.unitInterval
    · by_cases hs : n.system.le r.sentLo r.sentHi = true
      · have hframe : r.frameBytes ≠ 8 := by
          rcases h with h | h | h | h
          · omega
          · omega
          · simp [NumSystem.lt, hs] at h
          · exact h
        exact ⟨_, by rw [dif_pos ht, dif_pos hu, dif_pos hs, if_neg hframe]⟩
      · exact ⟨_, by rw [dif_pos ht, dif_pos hu, dif_neg hs]⟩
    · exact ⟨_, by rw [dif_pos ht, dif_neg hu]⟩
  · exact ⟨_, by rw [dif_neg ht]⟩

/-- Settles O5. -/
theorem illegalConfigurationIsRefused : Obligations.IllegalConfigurationIsRefused := by
  intro r
  refine ⟨?outside, fun n hn => ?admitted⟩
  case outside =>
    rintro (h | h)
    · exact ⟨.numInexact, start_of_error (by rw [Config.check, h])⟩
    · exact ⟨.argUnlawful, start_of_error (by rw [Config.check, h])⟩
  case admitted =>
    split
    · next hbad =>
      obtain ⟨e, he⟩ := check_of_illegal hn hbad
      exact ⟨e, start_of_error he⟩
    · next hgood =>
      simp only [not_or, not_not, Bool.not_eq_true] at hgood
      obtain ⟨ht, hu, hs, hframe⟩ := hgood
      have hs : n.system.le r.sentLo r.sentHi = true := by simpa [NumSystem.lt] using hs
      refine ⟨acceptedParams r n (Nat.pos_of_ne_zero ht) (Nat.pos_of_ne_zero hu) hs, start_of_ok ?_,
        rfl, rfl, rfl, rfl, rfl, rfl, rfl, rfl, rfl, rfl⟩
      rw [check_of_admitted hn, dif_pos (Nat.pos_of_ne_zero ht), dif_pos (Nat.pos_of_ne_zero hu), dif_pos hs,
        if_pos hframe]

end Sys2Proof.Machine
end

section
/-! SUPPORT. The sample step as the execution of its micro-operations one after the other (rule R96), phase by phase.
The transients the micro-operations leave for one another are no register, and cease with the step. -/

namespace Sys2Proof.Machine

/-! ### Transients do not matter to the registers -/

/-- A run does the same whatever the transients are. -/
theorem State.run_setWires (s : State) (w : Wires) (t : Nat) (level : Bool) :
    (s.setWires w).run t level = (s.run t level).setWires w := by
  rw [State.run_eq, State.run_eq, apply_ite (State.setWires · w), apply_ite (State.setWires · w)]
  rfl

/-- A run from any transients, its own transients closed, is the run from none. -/
theorem State.run_setWires_closeStep {s : State} (hidle : s.wires = .idle) (w : Wires) (t : Nat) (level : Bool) :
    ((s.setWires w).run t level).closeStep = s.run t level := by
  have hsame : s.setWires .idle = s := by rw [← hidle]; rfl
  rw [State.run_setWires]
  exact (State.run_setWires s .idle t level).symm.trans (congrArg (State.run · t level) hsame)

/-! ### `SEARCH` -/

/-- `SQL` at the trigger. -/
theorem exec_sql_trigger {s : State} (hsearch : s.phase = .search) {x : Sample} (htrig : trig s.cfg x = true) (t : Nat) :
    exec (.sql x t) s = .next
      ((s.setWires { s.wires with x := x, p := pow s.cfg.sys x, trig := trig s.cfg x }).sqlTrigger t) :=
  (exec_sql_of_search hsearch x t).trans (congrArg Host.Outcome.next (if_pos htrig))

/-- `SQL` below the trigger leaves transients only. -/
theorem exec_sql_below {s : State} (hsearch : s.phase = .search) {x : Sample} (htrig : ¬ trig s.cfg x = true) (t : Nat) :
    exec (.sql x t) s = .next (s.setWires { s.wires with x := x, p := pow s.cfg.sys x, trig := trig s.cfg x }) :=
  (exec_sql_of_search hsearch x t).trans (congrArg Host.Outcome.next (if_neg htrig))

/-- Settles O24, by the trigger and the mode. -/
theorem searchStepRunsItsMicroOperations : Obligations.SearchStepRunsItsMicroOperations := by
  intro x s hsearch t
  have hhalt : s.openStep.phase ≠ .halt := by rw [State.openStep_phase, hsearch]; decide
  have hscan := exec_scan_of_ne_halt hhalt x
  rw [exec_smp_wires, State.sample_search hsearch, State.trigger_eq]
  by_cases htrig : trig s.cfg x = true
  · have hsql := exec_sql_trigger (s := (s.openStep.scan x).setWires { Wires.idle with x := x }) hsearch htrig t
    rw [if_pos htrig]
    by_cases hmode : s.cfg.threshMode = .preamble
    · rw [State.sqlTrigger_preamble (by exact hmode)] at hsql
      refine ⟨_, _, hscan, hsql, ?_⟩
      rw [if_neg fun h => h.2 hmode]
      exact congrArg Host.Outcome.next (if_pos hmode)
    · rw [State.sqlTrigger_other (by exact hmode)] at hsql
      refine ⟨_, _, hscan, hsql, ?_⟩
      rw [if_pos ⟨htrig, hmode⟩]
      exact ⟨_, _, exec_thr_of_entry (by exact .inr ⟨hsearch, hmode⟩) _ _,
        exec_enterdata_of_entry (by exact .inr ⟨hsearch, hmode⟩) t,
        congrArg Host.Outcome.next (if_neg hmode)⟩
  · refine ⟨_, _, hscan, exec_sql_below (by exact hsearch) (by exact htrig) t, ?_⟩
    rw [if_neg fun h => htrig h.1, if_neg htrig]
    rfl

/-! ### `SYNC` -/

/-- Low power: `SCAN` and `DISCARD`, with the failure on the port (decision D14). -/
theorem powerDrop_runs_micro_operations {s : State} (hattempt : s.phase = .sync ∨ s.phase = .data) {x : Sample}
    (hdrop : powerDropped s.cfg x = true) :
    ∃ s1 s2, exec (.scan x) { s with out := .none, wires := .idle } = .next s1 ∧ exec .discard s1 = .next s2 ∧
      exec (.smp (.wires x)) s = .next { s2 with out := .framingFail .powerDrop, wires := .idle } := by
  have hhalt : s.openStep.phase ≠ .halt := by rcases hattempt with h | h <;> simp [h]
  refine ⟨_, _, exec_scan_of_ne_halt hhalt x, exec_discard_of_attempt (by exact hattempt), ?_⟩
  rw [exec_smp_wires]
  rcases hattempt with h | h
  · rw [State.sample_sync h, if_pos hdrop]; rfl
  · rw [State.sample_data h, if_pos hdrop]; rfl

/-- The transients of `DEMOD` at the beginning of a step. -/
def demodWires (s : State) (x : Sample) (disc : Option NUM) : Wires :=
  { Wires.idle with x := x, re := crossRe s.cfg.sys x s.prev, im := crossIm s.cfg.sys x s.prev, disc := disc }

theorem exec_demod_openStep {s : State} (hattempt : s.phase = .sync ∨ s.phase = .data) {x : Sample} {disc : Option NUM}
    (hdisc : demod s.cfg.sys x s.prev = disc) :
    exec (.demod x) s.openStep = .next (s.openStep.setWires (demodWires s x disc)) := by
  subst hdisc
  exact exec_demod_of_attempt (s := s.openStep) hattempt x

/-- Settles O25, by the power and the window. -/
theorem syncStepRunsItsMicroOperations : Obligations.SyncStepRunsItsMicroOperations := by
  intro x s hsync t
  by_cases hdrop : powerDropped s.cfg x = true
  · rw [if_pos ((powerDropped_iff s.cfg x).mp hdrop)]
    exact powerDrop_runs_micro_operations (.inl hsync) hdrop
  · rw [if_neg fun h => hdrop ((powerDropped_iff s.cfg x).mpr h)]
    have hhalt : s.openStep.phase ≠ .halt := by rw [State.openStep_phase, hsync]; decide
    refine ⟨_, _, _, exec_demod_openStep (.inl hsync) rfl, exec_scan_of_ne_halt (by exact hhalt) x,
      exec_syncacc_of_sync (by exact hsync) _, ?_⟩
    rw [exec_smp_wires, State.sample_sync hsync, if_neg hdrop, State.syncSample_eq]
    by_cases hclosed : s.cfg.sizeSync * s.cfg.unitInterval ≤ t - s.tSync0
    · rw [if_pos hclosed]
      exact ⟨_, _, exec_thr_of_entry (by exact .inl hsync) _ _, exec_enterdata_of_entry (by exact .inl hsync) t,
        congrArg Host.Outcome.next (if_pos hclosed)⟩
    · rw [if_neg hclosed]
      exact congrArg Host.Outcome.next (if_neg hclosed)

/-! ### `DATA` -/

/-- The sample step in `DATA` as executions, by the power, the validity and the flip. -/
theorem dataStep_runs_micro_operations {s : State} (hdata : s.phase = .data) {x : Sample}
    (hdrop : ¬ powerDropped s.cfg x = true) :
    ∃ s1 s2, exec (.demod x) { s with out := .none, wires := .idle } = .next s1 ∧ exec (.scan x) s1 = .next s2 ∧
      match s1.wires.disc with
      | none => exec (.smp (.wires x)) s = .next { s2 with wires := .idle }
      | some d =>
        ∃ s3, exec (.slice d) s2 = .next s3 ∧
          if s3.wires.level = s.lvl then exec (.smp (.wires x)) s = .next { s3 with wires := .idle }
          else ∃ s4, exec (.run (s.et + s.cfg.timeStep) s3.wires.level) s3 = .next s4 ∧
            exec (.smp (.wires x)) s = .next { s4 with wires := .idle } := by
  have hhalt : s.openStep.phase ≠ .halt := by rw [State.openStep_phase, hdata]; decide
  rw [exec_smp_wires, State.sample_data hdata, if_neg hdrop]
  cases hdisc : demod s.cfg.sys x s.prev with
  | none => exact ⟨_, _, exec_demod_openStep (.inr hdata) hdisc, exec_scan_of_ne_halt (by exact hhalt) x, rfl⟩
  | some d =>
    refine ⟨_, _, exec_demod_openStep (.inr hdata) hdisc, exec_scan_of_ne_halt (by exact hhalt) x, _,
      exec_slice_of_data (by exact hdata) d, ?_⟩
    rw [State.dataSample_some]
    by_cases hlevel : sliceLevel s.cfg.sys d s.thresh = s.lvl
    · refine (if_pos hlevel).mpr ?_
      exact congrArg Host.Outcome.next (if_pos hlevel)
    · refine (if_neg hlevel).mpr ⟨_, exec_run_of_data (by exact hdata) _ _, ?_⟩
      refine congrArg Host.Outcome.next ((if_neg hlevel).trans ?_)
      exact (State.run_setWires_closeStep (s := s.openStep.scan x) rfl _ s.now _).symm

@[simp] theorem State.placed_phase (s : State) (n : Nat) : (s.placed n).phase = s.phase := rfl

@[simp] theorem State.mapNibble_phase (s : State) (n : Nibble) (c : Choice) : (s.mapNibble n c).phase = s.phase := rfl

/-- The completion of a full frame as executions (rule R160): `CHK`, and if valid `DESCR`, `CHOICE` and `REPORT` of their
results; then `DISCARD`. -/
theorem run_full_runs_micro_operations {s : State} (hdata : s.phase = .data) {t : Nat} {level : Bool}
    (hfull : s.bitIdx.toNat + runLength s.cfg t s.tFlip = 64) :
    ∃ s2, exec .chk (s.placed (runLength s.cfg t s.tFlip)) = .next s2 ∧
      if s2.wires.valid = true then
        ∃ s3 s4 s5 s6 c, exec .descr s2 = .next s3 ∧ exec .choice s3 = .next s4 ∧ s4.wires.choice = some c ∧
          exec (.report s4.wires.id c s4.wires.nib) s4 = .next s5 ∧ exec .discard s5 = .next s6 ∧
          exec (.run t level) s =
            .next { s6 with wires := { s.wires with level := level, n := runLength s.cfg t s.tFlip } }
      else
        ∃ s3, exec .discard s2 = .next s3 ∧
          exec (.run t level) s = .next { s3 with
            out := .checksumFail, wires := { s.wires with level := level, n := runLength s.cfg t s.tFlip } } := by
  refine ⟨_, exec_chk_of_data (by simp [hdata]), ?_⟩
  rw [exec_run_full hdata hfull]
  by_cases hchk : (s.placed (runLength s.cfg t s.tFlip)).frame.chk = true
  · refine (if_pos hchk).mpr ⟨_, _, _, _, _, exec_descr_of_data (by simp [hdata]), exec_choice_of_data (by simp [hdata]),
      rfl, exec_report_of_data (by simp [hdata]) _ _ _, exec_discard_of_attempt (by simp [hdata]), ?_⟩
    rw [Memory.outcome_of_chk hchk]
    cases s
    rfl
  · refine (if_neg hchk).mpr ⟨_, exec_discard_of_attempt (by simp [hdata]), ?_⟩
    rw [Memory.outcome_of_not_chk hchk]
    rfl

/-- Settles O26: the sample step and `RUN`, each by its cases. -/
theorem dataStepRunsItsMicroOperations : Obligations.DataStepRunsItsMicroOperations := by
  refine ⟨fun x s hdata => ?sample, fun t level s hdata => ?run⟩
  case sample =>
    by_cases hdrop : powerDropped s.cfg x = true
    · exact (if_pos ((powerDropped_iff s.cfg x).mp hdrop)).mpr (powerDrop_runs_micro_operations (.inr hdata) hdrop)
    · exact (if_neg fun h => hdrop ((powerDropped_iff s.cfg x).mpr h)).mpr (dataStep_runs_micro_operations hdata hdrop)
  case run =>
    dsimp only
    by_cases hpast : 64 < s.bitIdx.toNat + runLength s.cfg t s.tFlip
    · exact (if_pos hpast).mpr ⟨_, exec_discard_of_attempt (.inr hdata), exec_run_past hdata hpast⟩
    · have hplaced : execAll (placements s.bitIdx.toNat (runLength s.cfg t s.tFlip) s.lvl) s =
          .next (s.placed (runLength s.cfg t s.tFlip)) := execAll_placements s.lvl hdata (Nat.le_of_not_lt hpast)
      refine (if_neg hpast).mpr ⟨_, hplaced, ?_⟩
      by_cases hfull : s.bitIdx.toNat + runLength s.cfg t s.tFlip = 64
      · exact (if_pos hfull).mpr (run_full_runs_micro_operations hdata hfull)
      · refine (if_neg hfull).mpr (exec_run_below hdata ?_)
        exact Nat.lt_of_le_of_ne (Nat.le_of_not_lt hpast) hfull

end Sys2Proof.Machine
end

section
/-! SUPPORT. Bytes bit by bit: the identifier map and its fixture (rules R89, R90, R200, R204), the checksum (rules R190
to R192) and the packing of the frame (rules R62, R183). -/

namespace Sys2Proof.Machine

/-! ### Bytes and their bits -/

/-- The bits of a byte written out, bit 7 first. -/
theorem byteOfBits_getLsbD (b7 b6 b5 b4 b3 b2 b1 b0 : Bool) (i : Fin 8) :
    (byteOfBits [b7, b6, b5, b4, b3, b2, b1, b0]).getLsbD i = [b0, b1, b2, b3, b4, b5, b6, b7].get i := by
  revert b7 b6 b5 b4 b3 b2 b1 b0 i
  decide

theorem byte_ext {x y : Byte} (h : ∀ i : Fin 8, x.getLsbD i = y.getLsbD i) : x = y :=
  BitVec.eq_of_getLsbD_eq fun i hi => h ⟨i, hi⟩

/-- A byte is the byte of its own bits. -/
theorem byteOfBits_bits (b : Byte) :
    byteOfBits [b.getLsbD 7, b.getLsbD 6, b.getLsbD 5, b.getLsbD 4, b.getLsbD 3, b.getLsbD 2, b.getLsbD 1,
      b.getLsbD 0] = b := by
  refine byte_ext fun i => ?_
  rw [byteOfBits_getLsbD]
  fin_cases i <;> rfl

/-- The value of a byte from its bits. -/
theorem toNat_eq_bits (b : Byte) :
    b.toNat = 128 * (b.getLsbD 7).toNat + 64 * (b.getLsbD 6).toNat + 32 * (b.getLsbD 5).toNat +
      16 * (b.getLsbD 4).toNat + 8 * (b.getLsbD 3).toNat + 4 * (b.getLsbD 2).toNat + 2 * (b.getLsbD 1).toNat +
      (b.getLsbD 0).toNat := by
  revert b
  decide

/-! ### The identifier map -/

/-- An identifier is its three independent bytes where the fourth is their XOR (rule R202). -/
theorem ident_ext {x y : Ident} (h0 : x.out0 = y.out0) (h1 : x.out1 = y.out1) (h2 : x.out2 = y.out2)
    (hx : x.out3 = x.out0 ^^^ x.out1 ^^^ x.out2) (hy : y.out3 = y.out0 ^^^ y.out1 ^^^ y.out2) : x = y := by
  cases x
  cases y
  simp_all

/-- The bit map and the formulas agree bit by bit. -/
theorem permute_eq_descramble (in0 in1 in2 in3 : Byte) : permute in0 in1 in2 in3 = descramble in0 in1 in2 in3 := by
  refine ident_ext (byte_ext fun i => ?_) (byte_ext fun i => ?_) (byte_ext fun i => ?_) rfl rfl <;>
    (rw [permute, descramble, byteOfBits_getLsbD]; fin_cases i <;> simp)

/-- Settles O54. -/
theorem bitMapEqualsFormulas : Obligations.BitMapEqualsFormulas := by
  intro in0 in1 in2 in3 s
  rw [← permute_eq_descramble]
  rfl

/-- The fixture is a right inverse of the formulas (rule R204), bit by bit. -/
theorem descramble_scramble (o0 o1 o2 : Byte) (nib : Nibble) :
    descramble (scramble o0 o1 o2 nib).1 (scramble o0 o1 o2 nib).2.1 (scramble o0 o1 o2 nib).2.2.1
      (scramble o0 o1 o2 nib).2.2.2 = ⟨o0, o1, o2, o0 ^^^ o1 ^^^ o2⟩ := by
  rw [← permute_eq_descramble]
  refine ident_ext (.trans ?_ (byteOfBits_bits o0)) (.trans ?_ (byteOfBits_bits o1)) (.trans ?_ (byteOfBits_bits o2))
    rfl rfl <;>
    simp [permute, scramble]

/-- The fixture keeps the button code. -/
theorem scramble_nib (o0 o1 o2 : Byte) (nib : Nibble) : (scramble o0 o1 o2 nib).2.2.2.extractLsb' 0 4 = nib := by
  refine BitVec.eq_of_getLsbD_eq fun i hi => ?_
  rw [scramble]
  interval_cases i <;> simp

/-- A bit that a mask keeps is false where the masked byte is 0. -/
theorem getLsbD_of_and_eq_zero {b mask : Byte} (h : b &&& mask = 0) {i : Nat} (hmask : mask.getLsbD i = true) :
    b.getLsbD i = false := by
  have hbit := congrArg (BitVec.getLsbD · i) h
  simpa [hmask] using hbit

/-- On the inputs with the four ignored bits 0 the fixture is a left inverse of the formulas (rule R90). -/
theorem scramble_descramble {in0 in1 in2 in3 : Byte} (h0 : in0.getLsbD 1 = false) (h1 : in1.getLsbD 1 = false)
    (h2 : in2.getLsbD 1 = false) (h3 : in3.getLsbD 4 = false) :
    scramble (descramble in0 in1 in2 in3).out0 (descramble in0 in1 in2 in3).out1 (descramble in0 in1 in2 in3).out2
      (in3.extractLsb' 0 4) = (in0, in1, in2, in3) := by
  have h0 : in0[1] = false := h0
  have h1 : in1[1] = false := h1
  have h2 : in2[1] = false := h2
  have h3 : in3[4] = false := h3
  refine Prod.ext (byte_ext fun i => ?_) (Prod.ext (byte_ext fun i => ?_) (Prod.ext (byte_ext fun i => ?_)
    (byte_ext fun i => ?_))) <;>
    (rw [descramble, scramble]; fin_cases i <;> simp [h0, h1, h2, h3])

/-- Settles O55. -/
theorem scrambleInvertsDescramble : Obligations.ScrambleInvertsDescramble := by
  refine ⟨fun o0 o1 o2 nib => ⟨descramble_scramble o0 o1 o2 nib, scramble_nib o0 o1 o2 nib⟩, ?left⟩
  case left =>
    intro in0 in1 in2 in3 h0 h1 h2 h3
    exact scramble_descramble (getLsbD_of_and_eq_zero h0 rfl) (getLsbD_of_and_eq_zero h1 rfl)
      (getLsbD_of_and_eq_zero h2 rfl) (getLsbD_of_and_eq_zero h3 rfl)

/-- The formulas do not look at the bits that rule R90 names, nor at the button code. -/
theorem descramble_masked (in0 in1 in2 in3 : Byte) :
    descramble (in0 &&& 0xFD) in1 (in2 &&& 0xFD) (in3 &&& 0xE0) = descramble in0 in1 in2 in3 := by
  rw [← permute_eq_descramble, ← permute_eq_descramble]
  simp [permute]

/-- Settles O59. -/
theorem choiceAndIdentifierAreIndependent : Obligations.ChoiceAndIdentifierAreIndependent := by
  intro s s' t t' hdata hdata'
  refine ⟨fun hnib ht ht' => ?choice, fun h0 h1 h2 h3 ht ht' => ?identifier⟩
  case choice =>
    cases (exec_choice_of_data hdata).symm.trans ht
    cases (exec_choice_of_data hdata').symm.trans ht'
    have hnib : s.frame.nib = s'.frame.nib := hnib
    exact ⟨congrArg (some ∘ choiceOf) hnib, hnib⟩
  case identifier =>
    cases (exec_descr_of_data hdata).symm.trans ht
    cases (exec_descr_of_data hdata').symm.trans ht'
    calc s.frame.descr
        = descramble (s.frame.read 3 &&& 0xFD) (s.frame.read 4) (s.frame.read 5 &&& 0xFD) (s.frame.read 6 &&& 0xE0) :=
          (descramble_masked _ _ _ _).symm
      _ = descramble (s'.frame.read 3 &&& 0xFD) (s'.frame.read 4) (s'.frame.read 5 &&& 0xFD)
            (s'.frame.read 6 &&& 0xE0) := by rw [h0, h1, h2, h3]
      _ = s'.frame.descr := descramble_masked _ _ _ _

/-! ### The checksum -/

/-- One checksum byte is valid: the sum modulo 256 (rules R190, R191). -/
theorem checksumValid_iff (b3 b4 b5 b6 b7 : Byte) : checksumValid b3 b4 b5 b6 b7 = true ↔ b7 = b3 + b4 + b5 + b6 := by
  rw [checksumValid, decide_eq_true_iff, ← BitVec.toNat_inj]
  simp only [BitVec.toNat_add]
  omega

/-- Flipping one bit of a byte changes it. -/
theorem xor_bit_ne (b : Byte) {i : Nat} (hi : i < 8) : b ^^^ ((1 : Byte) <<< i) ≠ b := by
  intro h
  have hbit := congrArg (BitVec.getLsbD · i) h
  simp [hi] at hbit

/-- Settles O51. -/
theorem checksumDetectsSingleBitErrors : Obligations.ChecksumDetectsSingleBitErrors := by
  intro b3 b4 b5 b6 b7
  refine ⟨checksumValid_iff b3 b4 b5 b6 b7, fun i hi hvalid => ?_⟩
  simp only [← Bool.not_eq_true, checksumValid_iff] at hvalid ⊢
  have hne : ∀ b : Byte, b ^^^ (1 : Byte) <<< i ≠ b := fun b => xor_bit_ne b hi
  refine ⟨fun h => hne b3 ?_, fun h => hne b4 ?_, fun h => hne b5 ?_, fun h => hne b6 ?_, fun h => hne b7 ?_⟩
  case refine_5 => exact h.trans hvalid.symm
  all_goals simpa using h.symm.trans hvalid

/-! ### The packing of the frame -/

theorem Memory.wf_placeAll {m : Memory} (hm : m.wf = true) {k : Nat} {es : List Bool} (hfit : k + es.length ≤ 64) :
    (placeAll m k es).wf = true := by
  induction es generalizing m k with
  | nil => exact hm
  | cons e es ih =>
    rw [List.length_cons] at hfit
    exact ih (Memory.wf_placeBit hm (by omega) e) (by omega)

/-- Placing a sequence ORs each bit in at its own index. -/
theorem Memory.bit_placeAll {m : Memory} (hm : m.wf = true) {k : Nat} {es : List Bool} (hfit : k + es.length ≤ 64)
    (j : Nat) :
    (placeAll m k es).bit j = if k ≤ j then m.bit j || es.getD (j - k) false else m.bit j := by
  induction es generalizing m k with
  | nil => simp [placeAll]
  | cons e es ih =>
    rw [List.length_cons] at hfit
    rw [placeAll, ih (Memory.wf_placeBit hm (by omega) e) (by omega), Memory.bit_placeBit hm]
    rcases Nat.lt_trichotomy j k with h | rfl | h
    · rw [if_neg (by omega), if_neg (by omega), if_neg (by omega)]
    · rw [if_neg (by omega), if_pos rfl, if_pos (Nat.le_refl j), Nat.sub_self, List.getD_cons_zero]
    · obtain ⟨d, rfl⟩ := Nat.exists_eq_add_of_lt h
      rw [if_pos (by omega), if_neg (by omega), if_pos (by omega), show k + d + 1 - (k + 1) = d by omega,
        show k + d + 1 - k = d + 1 by omega, List.getD_cons_succ]

/-- The frame of a sequence placed from index 0 on has the sequence for its bits. -/
theorem Memory.bit_placeAll_nil {es : List Bool} (hfit : es.length ≤ 64) (j : Nat) :
    (placeAll [] 0 es).bit j = es.getD j false := by
  rw [Memory.bit_placeAll Memory.wf_nil (by omega), if_pos (Nat.zero_le j), Memory.bit_nil, Bool.false_or, Nat.sub_zero]

/-- The bits of a byte of the frame, most significant first (rule R12). -/
theorem Memory.read_getLsbD (m : Memory) (a : Nat) {r : Nat} (hr : r < 8) :
    (m.read a).getLsbD (7 - r) = m.bit (8 * a + r) := by
  rw [Memory.bit, show (8 * a + r) / 8 = a by omega, show (8 * a + r) % 8 = r by omega]

/-- Settles O47: the value of a byte is that of its bits, and these are the ones placed. -/
theorem packingLaw : Obligations.PackingLaw := by
  intro e he j _
  have hbit : ∀ r, r < 8 → ((placeAll [] 0 e).read j).getLsbD (7 - r) = e.getD (8 * j + r) false := fun r hr => by
    rw [Memory.read_getLsbD _ j hr, Memory.bit_placeAll_nil he.le]
  rw [toNat_eq_bits, hbit 0 (by decide), hbit 1 (by decide), hbit 2 (by decide), hbit 3 (by decide),
    hbit 4 (by decide), hbit 5 (by decide), hbit 6 (by decide), hbit 7 (by decide), Nat.add_zero]

end Sys2Proof.Machine
end

section
/-! SUPPORT. The discriminator in an exact number system whose `ARG` has properties A1 to A7 (rules R135 to R141, R290):
every fact is read off the ordered field in which the names have their values. -/

namespace Sys2Proof.Machine

/-! ### The zero product -/

/-- In an ordered field the product with a conjugate is zero only where one of the factors is. -/
theorem cross_eq_zero_iff {K : Type} [Field K] [LinearOrder K] [IsStrictOrderedRing K] (a b c d : K) :
    (a * c + b * d = 0 ∧ b * c - a * d = 0) ↔ (a = 0 ∧ b = 0) ∨ (c = 0 ∧ d = 0) := by
  constructor
  · rintro ⟨hre, him⟩
    have hnorm : (a * a + b * b) * (c * c + d * d) = 0 :=
      calc (a * a + b * b) * (c * c + d * d)
          = (a * c + b * d) * (a * c + b * d) + (b * c - a * d) * (b * c - a * d) := by ring
        _ = 0 := by rw [hre, him]; ring
    rcases mul_eq_zero.mp hnorm with h | h
    · exact .inl (mul_self_add_mul_self_eq_zero.mp h)
    · exact .inr (mul_self_add_mul_self_eq_zero.mp h)
  · rintro (⟨rfl, rfl⟩ | ⟨rfl, rfl⟩) <;> constructor <;> ring

section exact

variable {N : NumSystem} {K : Type} [Field K] [LinearOrder K] [IsStrictOrderedRing K] {val : NUM → K}

theorem eq_zero_iff (hN : N.ExactIn K val) (a : NUM) : a = 0 ↔ val a = 0 := by
  rw [hN.eq_iff, hN.val_zero]

theorem sample_eq_origin_iff (hN : N.ExactIn K val) (x : Sample) : x = ⟨0, 0⟩ ↔ val x.i = 0 ∧ val x.q = 0 := by
  rw [← eq_zero_iff hN, ← eq_zero_iff hN]
  cases x
  simp

theorem cross_zero_iff (hN : N.ExactIn K val) (x prev : Sample) :
    (crossRe N x prev = 0 ∧ crossIm N x prev = 0) ↔ x = ⟨0, 0⟩ ∨ prev = ⟨0, 0⟩ := by
  rw [eq_zero_iff hN, eq_zero_iff hN, hN.val_crossRe, hN.val_crossIm, cross_eq_zero_iff, sample_eq_origin_iff hN,
    sample_eq_origin_iff hN]

/-- A sample that is not the origin has positive power. -/
theorem pow_pos_of_ne_origin (hN : N.ExactIn K val) {x : Sample} (hx : x ≠ ⟨0, 0⟩) :
    0 < val x.i * val x.i + val x.q * val x.q := by
  refine lt_of_le_of_ne (add_nonneg (mul_self_nonneg _) (mul_self_nonneg _)) fun h => hx ?_
  exact (sample_eq_origin_iff hN x).mpr (mul_self_add_mul_self_eq_zero.mp h.symm)

/-! ### The four axes -/

/-- A valid pair is the angle of the product, whatever names the product. -/
theorem demod_eq_some_arg {x prev : Sample} {re im : NUM} (hre : crossRe N x prev = re) (him : crossIm N x prev = im)
    (hne : ¬(re = 0 ∧ im = 0)) : demod N x prev = some (N.arg re im) := by
  rw [demod_eq, hre, him, if_neg hne]

theorem demod_east (hN : N.ExactIn K val) (harg : N.ArgLaws val) {x prev : Sample}
    (hre : 0 < val (crossRe N x prev)) (him : val (crossIm N x prev) = 0) : demod N x prev = some 0 := by
  rw [demod_eq_some_arg rfl ((eq_zero_iff hN _).mpr him) fun h => hre.ne' ((eq_zero_iff hN _).mp h.1),
    harg.axis_east _ hre]

theorem demod_west (hN : N.ExactIn K val) (harg : N.ArgLaws val) {x prev : Sample}
    (hre : val (crossRe N x prev) < 0) (him : val (crossIm N x prev) = 0) : demod N x prev = some N.pi := by
  rw [demod_eq_some_arg rfl ((eq_zero_iff hN _).mpr him) fun h => hre.ne ((eq_zero_iff hN _).mp h.1),
    harg.axis_west _ hre]

theorem demod_north (hN : N.ExactIn K val) (harg : N.ArgLaws val) {x prev : Sample}
    (hre : val (crossRe N x prev) = 0) (him : 0 < val (crossIm N x prev)) :
    demod N x prev = some (N.half N.pi) := by
  rw [demod_eq_some_arg ((eq_zero_iff hN _).mpr hre) rfl fun h => him.ne' ((eq_zero_iff hN _).mp h.2),
    harg.axis_north _ him]

theorem demod_south (hN : N.ExactIn K val) (harg : N.ArgLaws val) {x prev : Sample}
    (hre : val (crossRe N x prev) = 0) (him : val (crossIm N x prev) < 0) :
    demod N x prev = some (N.neg (N.half N.pi)) := by
  rw [demod_eq_some_arg ((eq_zero_iff hN _).mpr hre) rfl fun h => him.ne ((eq_zero_iff hN _).mp h.2),
    harg.axis_south _ him]

/-! ### Amplitudes -/

theorem crossRe_scale_left (hN : N.ExactIn K val) (k : NUM) (x prev : Sample) :
    crossRe N ⟨N.mul k x.i, N.mul k x.q⟩ prev = N.mul k (crossRe N x prev) := by
  refine hN.inj _ _ ?_
  simp only [hN.val_crossRe, hN.val_mul]
  ring

theorem crossIm_scale_left (hN : N.ExactIn K val) (k : NUM) (x prev : Sample) :
    crossIm N ⟨N.mul k x.i, N.mul k x.q⟩ prev = N.mul k (crossIm N x prev) := by
  refine hN.inj _ _ ?_
  simp only [hN.val_crossIm, hN.val_mul]
  ring

theorem crossRe_scale_right (hN : N.ExactIn K val) (k : NUM) (x prev : Sample) :
    crossRe N x ⟨N.mul k prev.i, N.mul k prev.q⟩ = N.mul k (crossRe N x prev) := by
  refine hN.inj _ _ ?_
  simp only [hN.val_crossRe, hN.val_mul]
  ring

theorem crossIm_scale_right (hN : N.ExactIn K val) (k : NUM) (x prev : Sample) :
    crossIm N x ⟨N.mul k prev.i, N.mul k prev.q⟩ = N.mul k (crossIm N x prev) := by
  refine hN.inj _ _ ?_
  simp only [hN.val_crossIm, hN.val_mul]
  ring

theorem mul_eq_zero_iff_of_pos (hN : N.ExactIn K val) {k : NUM} (hk : 0 < val k) (a : NUM) : N.mul k a = 0 ↔ a = 0 := by
  rw [eq_zero_iff hN, eq_zero_iff hN, hN.val_mul, mul_eq_zero, or_iff_right hk.ne']

/-- A product scaled by a positive factor has the same angle (A5). -/
theorem demod_of_cross_scaled (hN : N.ExactIn K val) (harg : N.ArgLaws val) {k : NUM} (hk : 0 < val k)
    {x prev x' prev' : Sample} (hre : crossRe N x' prev' = N.mul k (crossRe N x prev))
    (him : crossIm N x' prev' = N.mul k (crossIm N x prev)) : demod N x' prev' = demod N x prev := by
  have hzero : (N.mul k (crossRe N x prev) = 0 ∧ N.mul k (crossIm N x prev) = 0) ↔
      (crossRe N x prev = 0 ∧ crossIm N x prev = 0) :=
    and_congr (mul_eq_zero_iff_of_pos hN hk _) (mul_eq_zero_iff_of_pos hN hk _)
  rw [demod_eq, demod_eq, hre, him]
  by_cases h : crossRe N x prev = 0 ∧ crossIm N x prev = 0
  · rw [if_pos h, if_pos (hzero.mpr h)]
  · rw [if_neg h, if_neg (mt hzero.mp h), harg.scale k _ _ hk h]

/-! ### Range and sign -/

/-- A valid value is the angle of a product that is not zero. -/
theorem demod_eq_some_iff {x prev : Sample} {d : NUM} :
    demod N x prev = some d ↔
      ¬(crossRe N x prev = 0 ∧ crossIm N x prev = 0) ∧ N.arg (crossRe N x prev) (crossIm N x prev) = d := by
  rw [demod_eq]
  split
  · next h => simp [h]
  · next h => simp [h]

/-- A valid value lies above `-PI` and not above `PI` (A2). -/
theorem demod_range (hN : N.ExactIn K val) (harg : N.ArgLaws val) {x prev : Sample} {d : NUM}
    (hd : demod N x prev = some d) : val (N.neg N.pi) < val d ∧ val d ≤ val N.pi := by
  obtain ⟨hne, rfl⟩ := demod_eq_some_iff.mp hd
  rw [hN.val_neg]
  exact harg.range _ _ hne

/-- A valid value is positive for a product above the real axis, or on its negative half (A3). -/
theorem demod_pos_iff (harg : N.ArgLaws val) {x prev : Sample} {d : NUM} (hd : demod N x prev = some d) :
    0 < val d ↔ 0 < val (crossIm N x prev) ∨ (crossIm N x prev = 0 ∧ val (crossRe N x prev) < 0) := by
  obtain ⟨hne, rfl⟩ := demod_eq_some_iff.mp hd
  exact harg.pos_iff _ _ hne

end exact

/-! ### The statements -/

/-- Settles O33. -/
theorem discriminatorInvalidIffZeroSample : Obligations.DiscriminatorInvalidIffZeroSample := by
  intro c x prev
  obtain ⟨K, _, _, _, val, hN, -⟩ := c.sys_admitted
  rw [← cross_zero_iff hN, demod_eq]
  split
  · next h => simp [h]
  · next h => simp [h]

/-- Settles O34: the four products lie on the four axes. -/
theorem quarterAndHalfTurns : Obligations.QuarterAndHalfTurns := by
  intro c prev hprev
  dsimp only
  obtain ⟨K, _, _, _, val, hN, harg⟩ := c.sys_admitted
  have hpow := pow_pos_of_ne_origin hN hprev
  refine ⟨demod_east hN harg ?_ ?_, demod_west hN harg ?_ ?_, demod_north hN harg ?_ ?_, demod_south hN harg ?_ ?_⟩ <;>
    simp only [hN.val_crossRe, hN.val_crossIm, hN.val_neg] <;> linarith

/-- Settles O35. -/
theorem discriminatorMeaning : Obligations.DiscriminatorMeaning := by
  intro c k x prev hk
  dsimp only
  obtain ⟨K, _, _, _, val, hN, harg⟩ := c.sys_admitted
  have hk : 0 < val k := by rwa [hN.lt_iff, hN.val_zero] at hk
  refine ⟨demod_of_cross_scaled hN harg hk (crossRe_scale_left hN k x prev) (crossIm_scale_left hN k x prev),
    demod_of_cross_scaled hN harg hk (crossRe_scale_right hN k x prev) (crossIm_scale_right hN k x prev),
    fun d hd => ?_⟩
  simp only [hN.lt_iff, hN.le_iff, hN.val_zero]
  obtain ⟨hlow, hhigh⟩ := demod_range hN harg hd
  exact ⟨hlow, hhigh, demod_pos_iff harg hd⟩

/-- With a threshold at or below `-PI` every valid value gives level true (rule R290 (a)). -/
theorem sliceLevel_of_low_threshold {c : Params} {x prev : Sample} {d thresh : NUM}
    (hlow : c.sys.le thresh (c.sys.neg c.sys.pi) = true) (hd : demod c.sys x prev = some d) :
    sliceLevel c.sys d thresh = true := by
  obtain ⟨K, _, _, _, val, hN, harg⟩ := c.sys_admitted
  rw [hN.sliceLevel_eq, hN.lt_iff]
  exact lt_of_le_of_lt ((hN.le_iff _ _).mp hlow) (demod_range hN harg hd).1

/-- Settles O44: the power is not checked, and the level of a valid value is the one already there. -/
theorem sentinelThresholdNeverFlips : Obligations.SentinelThresholdNeverFlips := by
  intro x s hdata habort hlvl hlow
  have hdrop : ¬ powerDropped s.cfg x = true := by simp [powerDropped, habort]
  rw [exec_smp_wires, State.sample_data hdata, if_neg hdrop]
  refine congrArg Host.Outcome.next ?_
  cases hd : demod s.cfg.sys x s.prev with
  | none => rfl
  | some d =>
    have hlevel : sliceLevel s.cfg.sys d s.thresh = s.lvl := (sliceLevel_of_low_threshold hlow hd).trans hlvl.symm
    exact if_pos hlevel

end Sys2Proof.Machine
end

section
/-! SUPPORT. A discriminator sequence with exact transition times is recovered bit for bit (rule R163): the invariant
between the bits of such a sequence, one sample, the samples of one bit, and a whole sequence. -/

namespace Sys2Proof.Machine

/-! ### Runs on lists of lines -/

theorem feed_nil (s : State) : feed [] s = some (s, []) := rfl

/-- A run on two lists one after the other. -/
theorem feed_append {ls ls' : List Line} {s t u : State} {outs outs' : List OutEvent}
    (h : feed ls s = some (t, outs)) (h' : feed ls' t = some (u, outs')) :
    feed (ls ++ ls') s = some (u, outs ++ outs') := by
  induction ls generalizing s outs with
  | nil =>
    cases h
    exact h'
  | cons ℓ rest ih =>
    obtain ⟨v, outsRest, hstep, hrest, rfl⟩ := feed_cons_eq_some.mp h
    exact feed_cons_eq_some.mpr ⟨v, outsRest ++ outs', hstep, ih hrest, rfl⟩

theorem feed_singleton {ℓ : Line} {s t : State} (h : stepOn ℓ s = .next t) : feed [ℓ] s = some (t, [t.out]) :=
  feed_cons_eq_some.mpr ⟨t, [], h, rfl, rfl⟩

/-! ### One value at the test point -/

/-- The level of a value is the side of the threshold it lies on, in every number system of a configuration. -/
theorem sliceLevel_eq_lt (c : Params) (d thresh : NUM) : sliceLevel c.sys d thresh = c.sys.lt thresh d := by
  obtain ⟨K, _, _, _, val, hexact, -⟩ := c.sys_admitted
  exact hexact.sliceLevel_eq d thresh

/-- A test-point line in `DATA`, with nothing left over from before the step or after it. -/
theorem stepOn_lineDisc {s : State} (hdata : s.phase = .data) (d : NUM) :
    stepOn (lineDisc d) s = .next (s.registers.tick.dataSample s.now (some d)).closeStep := by
  have hexec : exec (.smp (.inject (some d))) s.registers = .next (s.registers.tick.dataSample s.now (some d)) :=
    State.injectSample_data (s := s.registers) hdata (some d)
  rw [stepOn, step_cons rfl]
  exact congrArg closeOutcome hexec

/-- A value of the level already there: only time moves. -/
theorem stepOn_lineDisc_same {s : State} (hdata : s.phase = .data) {d : NUM} (hlevel : s.cfg.sys.lt s.thresh d = s.lvl) :
    stepOn (lineDisc d) s = .next s.registers.tick := by
  rw [stepOn_lineDisc hdata, State.dataSample_some]
  exact congrArg Host.Outcome.next (congrArg State.closeStep (if_pos ((sliceLevel_eq_lt _ _ _).trans hlevel)))

/-- A value of the other level: the run at a flip. -/
theorem stepOn_lineDisc_flip {s : State} (hdata : s.phase = .data) {d : NUM} {b : Bool}
    (hb : s.cfg.sys.lt s.thresh d = b) (hflip : b ≠ s.lvl) :
    stepOn (lineDisc d) s = .next (s.registers.tick.run s.now b).closeStep := by
  have hlevel : sliceLevel s.cfg.sys d s.thresh = b := (sliceLevel_eq_lt _ _ _).trans hb
  rw [stepOn_lineDisc hdata, State.dataSample_some]
  refine congrArg Host.Outcome.next (congrArg State.closeStep ((if_neg ?_).trans ?_))
  · exact fun h => hflip (hlevel.symm.trans h)
  · exact congrArg (s.registers.tick.run s.now) hlevel

/-! ### Between the bits of a sequence -/

/-- With two samples a bit or more, a time step is less than a unit interval. -/
theorem timeStep_lt_unitInterval {c : Params} {k : Nat} (hk : 2 ≤ k) (hunit : c.unitInterval = k * c.timeStep) :
    c.timeStep < c.unitInterval := by
  rw [hunit]
  exact lt_mul_of_one_lt_left c.timeStep_pos hk

/-- What holds in `DATA` after the bits `bits` of a sequence that began at time `t0`: the bits below `BITIDX` are in the
frame, those from there on are pending at the level `LVL`, and the last flip was at the first sample of the first of
them (for the first run of all, at the entry to `DATA`). -/
structure Recovered (c : Params) (thresh : NUM) (t0 : Nat) (bits : List Bool) (s : State) : Prop where
  data : s.phase = .data
  cfg_eq : s.cfg = c
  thresh_eq : s.thresh = thresh
  idx_le : s.bitIdx.toNat ≤ bits.length
  le_flip : t0 + s.bitIdx.toNat * c.unitInterval ≤ s.tFlip
  flip_le : s.tFlip ≤ t0 + s.bitIdx.toNat * c.unitInterval + c.timeStep
  pending : ∀ j, s.bitIdx.toNat ≤ j → j < bits.length → bits.getD j false = s.lvl
  frame_wf : s.frame.wf = true
  placed : ∀ j, s.frame.bit j = (decide (j < s.bitIdx.toNat) && bits.getD j false)

section sequence

variable {c : Params} {thresh : NUM} {t0 : Nat} {bits : List Bool} {s : State}

/-- From entry to `DATA` nothing is recovered yet. -/
theorem recovered_nil (hdata : s.phase = .data) (hidx : s.bitIdx = 0) (hframe : s.frame = []) (hflip : s.tFlip = s.et) :
    Recovered s.cfg s.thresh s.et [] s where
  data := hdata
  cfg_eq := rfl
  thresh_eq := rfl
  idx_le := by simp [hidx]
  le_flip := by simp [hidx, hflip]
  flip_le := by simp [hidx, hflip]
  pending j _ h := by simp at h
  frame_wf := by rw [hframe]; rfl
  placed j := by simp [hidx, hframe]

/-- The time does not matter to what is recovered, nor do the ports. -/
theorem Recovered.tick (h : Recovered c thresh t0 bits s) : Recovered c thresh t0 bits s.registers.tick :=
  ⟨h.data, h.cfg_eq, h.thresh_eq, h.idx_le, h.le_flip, h.flip_le, h.pending, h.frame_wf, h.placed⟩

/-- One more bit of the level already there is pending. -/
theorem Recovered.snoc (h : Recovered c thresh t0 bits s) : Recovered c thresh t0 (bits ++ [s.lvl]) s where
  data := h.data
  cfg_eq := h.cfg_eq
  thresh_eq := h.thresh_eq
  idx_le := by rw [List.length_append]; exact h.idx_le.trans (Nat.le_add_right _ _)
  le_flip := h.le_flip
  flip_le := h.flip_le
  pending j hj hlen := by
    rcases Nat.lt_or_ge j bits.length with hlt | hge
    · rw [List.getD_append _ _ _ _ hlt]
      exact h.pending j hj hlt
    · have : j = bits.length := by simp at hlen; omega
      simp [this]
  frame_wf := h.frame_wf
  placed j := by
    rw [h.placed]
    by_cases hj : j < s.bitIdx.toNat
    · rw [List.getD_append _ _ _ _ (Nat.lt_of_lt_of_le hj h.idx_le)]
    · simp [hj]

/-- At the first sample after the bits, the run length counts the pending ones (rule R156): an interval of exactly that
many unit intervals, or one time step more. -/
theorem Recovered.runLength_eq (h : Recovered c thresh t0 bits s) (het : s.et = t0 + bits.length * c.unitInterval)
    (hstep : c.timeStep < c.unitInterval) :
    s.bitIdx.toNat + runLength s.cfg s.now s.tFlip = bits.length := by
  obtain ⟨n, hn⟩ := Nat.exists_eq_add_of_le h.idx_le
  have hsplit : bits.length * c.unitInterval = s.bitIdx.toNat * c.unitInterval + n * c.unitInterval := by
    rw [hn, Nat.add_mul]
  have hnow : s.now = t0 + bits.length * c.unitInterval + c.timeStep := by rw [State.now, het, h.cfg_eq]
  have hlow := h.le_flip
  have hhigh := h.flip_le
  have hquot : runLength s.cfg s.now s.tFlip = n := by
    rw [runLength, h.cfg_eq, hnow]
    refine Nat.div_eq_of_lt_le ?_ ?_
    · omega
    · rw [Nat.add_one_mul]; omega
  rw [hquot, hn]

/-- The frame with the pending bits placed has all the bits of the sequence. -/
theorem Recovered.bit_placeRun (h : Recovered c thresh t0 bits s) {n : Nat} (hn : s.bitIdx.toNat + n = bits.length)
    (hfit : bits.length ≤ 64) (j : Nat) :
    (s.frame.placeRun s.bitIdx.toNat n s.lvl).bit j = (decide (j < bits.length) && bits.getD j false) := by
  rw [Memory.bit_placeRun h.frame_wf (by omega), h.placed]
  by_cases hrun : s.bitIdx.toNat ≤ j ∧ j < s.bitIdx.toNat + n
  · rw [if_pos hrun, h.pending j hrun.1 (by omega)]
    simp [show ¬ j < s.bitIdx.toNat by omega, show j < bits.length by omega]
  · rw [if_neg hrun]
    congr 2
    rw [eq_iff_iff]
    omega

/-- With the pending bits placed at the first sample after the bits, none is pending and a new run begins. -/
theorem Recovered.emit (h : Recovered c thresh t0 bits s) {n t : Nat} (hn : s.bitIdx.toNat + n = bits.length)
    (hlen : bits.length < 64) (ht : t = t0 + bits.length * c.unitInterval + c.timeStep) (b : Bool) :
    (s.emit t b n).bitIdx.toNat = bits.length ∧ Recovered c thresh t0 bits (s.emit t b n) := by
  have hidx : (s.emit t b n).bitIdx.toNat = bits.length := by
    rw [State.emit_bitIdx, hn, BitVec.toNat_ofNat]
    omega
  refine ⟨hidx, ?_⟩
  exact
    { data := h.data
      cfg_eq := h.cfg_eq
      thresh_eq := h.thresh_eq
      idx_le := hidx.le
      le_flip := by rw [hidx, State.emit_tFlip, ht]; exact Nat.le_add_right _ _
      flip_le := by rw [hidx, State.emit_tFlip, ht]
      pending := fun j hj hj' => absurd hj' (Nat.not_lt.mpr (hidx ▸ hj))
      frame_wf := Memory.wf_placeRun h.frame_wf (by omega) _
      placed := fun j => by rw [hidx]; exact h.bit_placeRun hn hlen.le j }

/-- A flip after fewer than 64 bits. -/
theorem Recovered.flip (h : Recovered c thresh t0 bits s) (het : s.et = t0 + bits.length * c.unitInterval)
    (hstep : c.timeStep < c.unitInterval) (hlen : bits.length < 64) {d : NUM} {b : Bool} (hd : c.sys.lt thresh d = b)
    (hb : b ≠ s.lvl) :
    ∃ t, stepOn (lineDisc d) s = .next t ∧ Recovered c thresh t0 bits t ∧ t.out = .none ∧
      t.et = s.et + c.timeStep ∧ t.lvl = b ∧ t.bitIdx.toNat = bits.length := by
  have hcount := h.runLength_eq het hstep
  have hrun : s.registers.tick.run s.now b = s.registers.tick.emit s.now b (runLength s.cfg s.now s.tFlip) :=
    State.run_below (s := s.registers.tick) (by rw [← hcount] at hlen; exact hlen)
  have hnow : s.now = s.et + c.timeStep := by rw [State.now, h.cfg_eq]
  obtain ⟨hidx, hemit⟩ := h.tick.emit hcount hlen (hnow.trans (by rw [het])) b
  rw [← h.cfg_eq, ← h.thresh_eq] at hd
  refine ⟨_, stepOn_lineDisc_flip h.data hd hb, ?_⟩
  rw [hrun]
  exact ⟨hemit, rfl, hnow, rfl, hidx⟩

/-- A value of the level already there: the same bits are recovered, a time step later. -/
theorem Recovered.same (h : Recovered c thresh t0 bits s) {d : NUM} (hd : c.sys.lt thresh d = s.lvl) :
    ∃ t, stepOn (lineDisc d) s = .next t ∧ Recovered c thresh t0 bits t ∧ t.out = .none ∧
      t.et = s.et + c.timeStep ∧ t.lvl = s.lvl := by
  rw [← h.cfg_eq, ← h.thresh_eq] at hd
  exact ⟨_, stepOn_lineDisc_same h.data hd, h.tick, rfl, by rw [← h.cfg_eq]; rfl, rfl⟩

/-! ### The samples of one bit -/

/-- The first value of a bit flips the level or not; either way its bit is pending. -/
theorem Recovered.first (h : Recovered c thresh t0 bits s) (het : s.et = t0 + bits.length * c.unitInterval)
    (hstep : c.timeStep < c.unitInterval) (hlen : bits.length < 64) {d : NUM} {b : Bool} (hd : c.sys.lt thresh d = b) :
    ∃ t, stepOn (lineDisc d) s = .next t ∧ Recovered c thresh t0 (bits ++ [b]) t ∧ t.out = .none ∧
      t.et = s.et + c.timeStep ∧ t.lvl = b := by
  by_cases hb : b = s.lvl
  · obtain ⟨t, hnext, ht, hout, htime, hlvl⟩ := h.same (hd.trans hb)
    refine ⟨t, hnext, ?_, hout, htime, hlvl.trans hb.symm⟩
    rw [hb, ← hlvl]
    exact ht.snoc
  · obtain ⟨t, hnext, ht, hout, htime, hlvl, -⟩ := h.flip het hstep hlen hd hb
    refine ⟨t, hnext, ?_, hout, htime, hlvl⟩
    rw [← hlvl]
    exact ht.snoc

/-- Values of the level already there, any number of them. -/
theorem Recovered.hold (h : Recovered c thresh t0 bits s) {ds : List NUM} (hds : ∀ d ∈ ds, c.sys.lt thresh d = s.lvl) :
    ∃ t, feed (ds.map lineDisc) s = some (t, List.replicate ds.length .none) ∧ Recovered c thresh t0 bits t ∧
      t.et = s.et + ds.length * c.timeStep ∧ t.lvl = s.lvl := by
  induction ds generalizing s with
  | nil => exact ⟨s, rfl, h, by simp, rfl⟩
  | cons d ds ih =>
    obtain ⟨t, hnext, ht, hout, htime, hlvl⟩ := h.same (hds d List.mem_cons_self)
    obtain ⟨u, hfeed, hu, hutime, hulvl⟩ := ih ht fun d' hd' => (hds d' (List.mem_cons_of_mem d hd')).trans hlvl.symm
    refine ⟨u, feed_cons_eq_some.mpr ⟨t, _, hnext, hfeed, ?_⟩, hu, ?_, hulvl.trans hlvl⟩
    · rw [hout, List.length_cons, List.replicate_succ]
    · rw [hutime, htime, List.length_cons, Nat.add_one_mul]
      omega

/-- The `k` values of one bit take one unit interval and leave the bit pending. -/
theorem Recovered.bit (h : Recovered c thresh t0 bits s) (het : s.et = t0 + bits.length * c.unitInterval) {k : Nat}
    (hk : 2 ≤ k) (hunit : c.unitInterval = k * c.timeStep) (hlen : bits.length < 64) {ds : List NUM} {b : Bool}
    (hds : ∀ d ∈ ds, c.sys.lt thresh d = b) (hcount : ds.length = k) :
    ∃ t, feed (ds.map lineDisc) s = some (t, List.replicate k .none) ∧ Recovered c thresh t0 (bits ++ [b]) t ∧
      t.et = t0 + (bits ++ [b]).length * c.unitInterval ∧ t.lvl = b := by
  have hstep := timeStep_lt_unitInterval hk hunit
  cases ds with
  | nil => simp at hcount; omega
  | cons d ds =>
    obtain ⟨t, hnext, ht, hout, htime, hlvl⟩ := h.first het hstep hlen (hds d List.mem_cons_self)
    obtain ⟨u, hfeed, hu, hutime, hulvl⟩ :=
      ht.hold fun d' hd' => (hds d' (List.mem_cons_of_mem d hd')).trans hlvl.symm
    subst hcount
    refine ⟨u, feed_cons_eq_some.mpr ⟨t, _, hnext, hfeed, ?_⟩, hu, ?_, hulvl.trans hlvl⟩
    · rw [hout, List.length_cons, List.replicate_succ]
    · rw [List.length_cons, Nat.add_one_mul] at hunit
      rw [hutime, htime, het, List.length_append, List.length_singleton, Nat.add_one_mul]
      omega

/-! ### A whole sequence -/

/-- The values of a first bit and those of the bits after it. -/
theorem onSides_cons {N : NumSystem} {k : Nat} (hk : 0 < k) {b : Bool} {bs : List Bool} {ds : List NUM}
    (h : OnSides N thresh k (b :: bs) ds) :
    (ds.take k).length = k ∧ (∀ d ∈ ds.take k, N.lt thresh d = b) ∧ OnSides N thresh k bs (ds.drop k) := by
  obtain ⟨hlen, hside⟩ := h
  rw [List.length_cons, Nat.mul_add_one] at hlen hside
  have htake : (ds.take k).length = k := by rw [List.length_take]; omega
  refine ⟨htake, ?first, ?length, ?sides⟩
  case first =>
    intro d hd
    obtain ⟨j, hj, rfl⟩ := List.getElem_of_mem hd
    have hjk : j < k := by rwa [htake] at hj
    have hb := hside j (by omega)
    rw [Nat.div_eq_of_lt hjk, List.getD_cons_zero] at hb
    rw [List.getElem_take, ← List.getD_eq_getElem (d := 0)]
    exact hb
  case length => rw [List.length_drop]; omega
  case sides =>
    intro j hj
    have hb := hside (k + j) (by omega)
    rw [Nat.add_div_left _ hk, List.getD_cons_succ] at hb
    rw [← hb]
    simp [List.getD]

/-- A sequence of bits is recovered, all that fits the frame. -/
theorem Recovered.sequence (h : Recovered c thresh t0 bits s) (het : s.et = t0 + bits.length * c.unitInterval) {k : Nat}
    (hk : 2 ≤ k) (hunit : c.unitInterval = k * c.timeStep) {bs : List Bool} {ds : List NUM}
    (hfit : bits.length + bs.length ≤ 64) (hds : OnSides c.sys thresh k bs ds) :
    ∃ t, feed (ds.map lineDisc) s = some (t, List.replicate (bs.length * k) .none) ∧
      Recovered c thresh t0 (bits ++ bs) t ∧ t.et = t0 + (bits ++ bs).length * c.unitInterval ∧
      t.lvl = bs.getLastD s.lvl := by
  induction bs generalizing bits s ds with
  | nil =>
    have hnil : ds = [] := List.eq_nil_of_length_eq_zero hds.1
    subst hnil
    exact ⟨s, by simp [feed_nil], by simpa using h, by simpa using het, rfl⟩
  | cons b bs ih =>
    rw [List.length_cons] at hfit
    obtain ⟨hcount, hfirst, hrest⟩ := onSides_cons (by omega) hds
    obtain ⟨t, hfeed, ht, htime, hlvl⟩ := h.bit het hk hunit (by omega) hfirst hcount
    obtain ⟨u, hfeed', hu, hutime, hulvl⟩ := ih ht htime (by rw [List.length_append, List.length_singleton]; omega) hrest
    rw [List.append_assoc, List.singleton_append] at hu hutime
    refine ⟨u, ?_, hu, hutime, ?_⟩
    · have hboth := feed_append hfeed hfeed'
      rwa [← List.map_append, List.take_append_drop, List.replicate_append_replicate, Nat.add_comm,
        ← Nat.add_one_mul] at hboth
    · rw [hulvl, hlvl, List.getLastD_cons]

end sequence

/-! ### The statements -/

/-- From entry to `DATA`, a sequence of at most 64 bits is recovered up to its last run, which is pending. -/
theorem recovered_of_entry {s : State} {k : Nat} {ds : List NUM} {bs : List Bool} (hdata : s.phase = .data)
    (hlvl : s.lvl = false) (hidx : s.bitIdx = 0) (hframe : s.frame = []) (hflip : s.tFlip = s.et) (hk : 2 ≤ k)
    (hunit : s.cfg.unitInterval = k * s.cfg.timeStep) (hds : OnSides s.cfg.sys s.thresh k bs ds)
    (hfit : bs.length ≤ 64) :
    ∃ t, feed (ds.map lineDisc) s = some (t, List.replicate (bs.length * k) .none) ∧
      Recovered s.cfg s.thresh s.et bs t ∧ t.et = s.et + bs.length * s.cfg.unitInterval ∧
      t.lvl = bs.getLastD false := by
  have hstart := recovered_nil hdata hidx hframe hflip
  have hbits := hstart.sequence (by simp) hk hunit (by simpa using hfit) hds
  rwa [hlvl] at hbits

/-- Settles O42: the bits, and one flip more, which places the last run. -/
theorem recoversBitsBetweenTransitions : Obligations.RecoversBitsBetweenTransitions := by
  intro s k ds e bs last hdata hlvl hidx hframe hflip hk hunit hds hlast he hfit
  obtain ⟨t, hfeed, ht, htime, htlvl⟩ := recovered_of_entry hdata hlvl hidx hframe hflip hk hunit hds (by omega)
  have hstep := timeStep_lt_unitInterval hk hunit
  have hne : (!last) ≠ t.lvl := by
    rw [htlvl, List.getLastD_eq_getLast?, hlast]
    simp
  obtain ⟨u, hnext, hu, hout, -, -, huidx⟩ := ht.flip htime hstep (by omega) he hne
  refine ⟨u, _, feed_append hfeed (feed_singleton hnext), ?_, hu.data, huidx, fun j hj => ?_⟩
  · intro o ho
    rw [hout] at ho
    simp at ho
    tauto
  · rw [hu.placed, huidx]
    simp [hj]

/-- The bits of a list of bytes, byte by byte, most significant first. -/
theorem getD_flatMap_bitsOfByte (l : List Byte) {a r : Nat} (ha : a < l.length) (hr : r < 8) :
    (l.flatMap bitsOfByte).getD (8 * a + r) false = (l.getD a 0).getLsbD (7 - r) := by
  induction l generalizing a with
  | nil => simp at ha
  | cons b l ih =>
    have hlen : (bitsOfByte b).length = 8 := rfl
    rw [List.flatMap_cons]
    cases a with
    | zero =>
      rw [List.getD_append _ _ _ _ (by omega), List.getD_cons_zero, Nat.mul_zero, Nat.zero_add]
      interval_cases r <;> rfl
    | succ a =>
      rw [List.getD_append_right _ _ _ _ (by omega), hlen, show 8 * (a + 1) + r - 8 = 8 * a + r by omega,
        List.getD_cons_succ]
      exact ih (by simpa using ha)

/-- A frame with the bits of eight bytes holds the bytes. -/
theorem read_of_bits {m : Memory} {l : List Byte} (h : ∀ j, j < 64 → m.bit j = (l.flatMap bitsOfByte).getD j false)
    {a : Nat} (ha : a < 8) (hl : a < l.length) : m.read a = l.getD a 0 := by
  refine BitVec.eq_of_getLsbD_eq fun i hi => ?_
  have hbit := (Memory.read_getLsbD m a (r := 7 - i) (by omega)).trans
    ((h (8 * a + (7 - i)) (by omega)).trans (getD_flatMap_bitsOfByte l hl (by omega)))
  rwa [show 7 - (7 - i) = i by omega] at hbit

/-- What a full frame with the bits of eight bytes gives. -/
theorem outcome_of_bits {m : Memory} {b0 b1 b2 b3 b4 b5 b6 b7 : Byte}
    (h : ∀ j, j < 64 → m.bit j = ([b0, b1, b2, b3, b4, b5, b6, b7].flatMap bitsOfByte).getD j false) :
    m.outcome =
      if (b3.toNat + b4.toNat + b5.toNat + b6.toNat) % 256 = b7.toNat then
        .report (descramble b3 b4 b5 b6) (choiceOf (b6.extractLsb' 0 4)) (b6.extractLsb' 0 4)
      else .checksumFail := by
  have hread {a : Nat} (ha : a < 8) : m.read a = [b0, b1, b2, b3, b4, b5, b6, b7].getD a 0 := read_of_bits h ha ha
  rw [Memory.outcome_eq, hread (show 3 < 8 by omega), hread (show 4 < 8 by omega), hread (show 5 < 8 by omega),
    hread (show 6 < 8 by omega), hread (show 7 < 8 by omega)]
  rfl

/-- A flip after exactly 64 bits completes the frame. -/
theorem Recovered.complete {c : Params} {thresh : NUM} {t0 : Nat} {bits : List Bool} {s : State}
    (h : Recovered c thresh t0 bits s) (het : s.et = t0 + bits.length * c.unitInterval)
    (hstep : c.timeStep < c.unitInterval) (hlen : bits.length = 64) {d : NUM} {b : Bool} (hd : c.sys.lt thresh d = b)
    (hb : b ≠ s.lvl) :
    ∃ m : Memory, (∀ j, j < 64 → m.bit j = bits.getD j false) ∧
      stepOn (lineDisc d) s = .next (s.registers.tick.raise m.outcome).closeStep := by
  have hcount := h.runLength_eq het hstep
  refine ⟨s.frame.placeRun s.bitIdx.toNat (runLength s.cfg s.now s.tFlip) s.lvl, fun j hj => ?bits, ?next⟩
  case bits =>
    rw [h.bit_placeRun hcount hlen.le, hlen, decide_eq_true hj, Bool.true_and]
  case next =>
    rw [← h.cfg_eq, ← h.thresh_eq] at hd
    rw [stepOn_lineDisc_flip h.data hd hb]
    exact congrArg (fun u : State => Host.Outcome.next u.closeStep)
      (State.run_full (s := s.registers.tick) (hcount.trans hlen))

/-- Settles O43: the 64 bits are recovered, and the closing flip completes the frame. -/
theorem wholeFrameIsReportedOrRejected : Obligations.WholeFrameIsReportedOrRejected := by
  intro s k ds e b0 b1 b2 b3 b4 b5 b6 b7 hdata hlvl hidx hframe hflip hk hunit hds he
  have hlen : ([b0, b1, b2, b3, b4, b5, b6, b7].flatMap bitsOfByte).length = 64 := rfl
  obtain ⟨t, hfeed, ht, htime, htlvl⟩ := recovered_of_entry hdata hlvl hidx hframe hflip hk hunit hds hlen.le
  have hstep := timeStep_lt_unitInterval hk hunit
  have hlast : t.lvl = b7.getLsbD 0 := htlvl
  have hne : (!b7.getLsbD 0) ≠ t.lvl := by rw [hlast]; simp
  obtain ⟨m, hbits, hnext⟩ := ht.complete htime hstep hlen he hne
  refine ⟨(t.registers.tick.raise m.outcome).closeStep, ?feed, ?registers⟩
  case feed =>
    rw [← outcome_of_bits hbits]
    rw [hlen] at hfeed
    exact feed_append hfeed (feed_singleton hnext)
  case registers => rw [← ht.cfg_eq]; rfl

end Sys2Proof.Machine
end
